-- ==== Sys2Proof/Word.lean ====
section
/-! DEFINITION. The word types of the CHIP-8 core and their plainest arithmetic (00_scope.md R7, R9).
Everything is unsigned: there is no signed view of a word anywhere in this hardware (R9). -/

namespace Sys2Proof

/-- An 8-bit value: a general register, a timer, a memory cell (R7). -/
abbrev Byte := BitVec 8

/-- A 16-bit value: `I`, `pc`, a stack entry, an instruction word (R7). -/
abbrev Word := BitVec 16

/-- The number of a general register, 0 to 15 (10_state.md R21); all 16 are legal wherever a register is named. -/
abbrev Reg := Fin 16

/-- The index of a keypad flag, 0x0 to 0xF (10_state.md R32). -/
abbrev Key := Fin 16

/-- `b2i(c)` of R9, as the 8-bit value a flag write stores. -/
def b2i (c : Bool) : Byte := if c then 1#8 else 0#8

end Sys2Proof
end

