-- ==== Sys2Proof/Syntax.lean ====
section
/-! DEFINITION. The instruction set: one constructor for each of the 34 rows of spec/opcode_table.json (30_encoding.md R86),
in the table's order. Operands are those of R82: `x`, `y` register numbers, `nn` a byte, `nnn` a 12-bit address,
`n` a count of sprite rows. -/

namespace Sys2Proof

inductive Instr where
  /-- 00E0 CLS (44_display.md R181). -/
  | cls
  /-- 00EE RET (41_control_flow.md R121). -/
  | ret
  /-- 1NNN JP nnn (R122). -/
  | jp (nnn : BitVec 12)
  /-- 2NNN CALL nnn (R123). -/
  | call (nnn : BitVec 12)
  /-- 3XNN SE Vx, nn (R124). -/
  | seImm (x : Reg) (nn : Byte)
  /-- 4XNN SNE Vx, nn (R125). -/
  | sneImm (x : Reg) (nn : Byte)
  /-- 5XY0 SE Vx, Vy (R126). -/
  | seReg (x y : Reg)
  /-- 9XY0 SNE Vx, Vy (R127). -/
  | sneReg (x y : Reg)
  /-- 6XNN LD Vx, nn (42_register_alu.md R141). -/
  | ldImm (x : Reg) (nn : Byte)
  /-- 7XNN ADD Vx, nn (R142). -/
  | addImm (x : Reg) (nn : Byte)
  /-- 8XY0 LD Vx, Vy (R143). -/
  | ldReg (x y : Reg)
  /-- 8XY1 OR Vx, Vy (R144). -/
  | orReg (x y : Reg)
  /-- 8XY2 AND Vx, Vy (R145). -/
  | andReg (x y : Reg)
  /-- 8XY3 XOR Vx, Vy (R146). -/
  | xorReg (x y : Reg)
  /-- 8XY4 ADD Vx, Vy (R147). -/
  | addReg (x y : Reg)
  /-- 8XY5 SUB Vx, Vy (R148). -/
  | sub (x y : Reg)
  /-- 8XY6 SHR Vx, Vy (R149). -/
  | shr (x y : Reg)
  /-- 8XY7 SUBN Vx, Vy (R150). -/
  | subn (x y : Reg)
  /-- 8XYE SHL Vx, Vy (R151). -/
  | shl (x y : Reg)
  /-- ANNN LD I, nnn (43_index_memory.md R160). -/
  | ldI (nnn : BitVec 12)
  /-- BNNN JP V0, nnn (41_control_flow.md R128). -/
  | jpV0 (nnn : BitVec 12)
  /-- CXNN RND Vx, nn (42_register_alu.md R152). -/
  | rnd (x : Reg) (nn : Byte)
  /-- DXYN DRW Vx, Vy, n (44_display.md R182). -/
  | drw (x y : Reg) (n : Nat)
  /-- EX9E SKP Vx (45_keypad_timers.md R190). -/
  | skp (x : Reg)
  /-- EXA1 SKNP Vx (R191). -/
  | sknp (x : Reg)
  /-- FX07 LD Vx, DT (R192). -/
  | ldVxDt (x : Reg)
  /-- FX15 LD DT, Vx (R193). -/
  | ldDtVx (x : Reg)
  /-- FX18 LD ST, Vx (R194). -/
  | ldStVx (x : Reg)
  /-- FX1E ADD I, Vx (43_index_memory.md R161). -/
  | addI (x : Reg)
  /-- FX0A LD Vx, K (45_keypad_timers.md R195). -/
  | ldVxK (x : Reg)
  /-- FX29 LD F, Vx (43_index_memory.md R162). -/
  | ldF (x : Reg)
  /-- FX33 LD B, Vx (R163). -/
  | ldB (x : Reg)
  /-- FX55 LD [I], Vx (R164). -/
  | storeRegs (x : Reg)
  /-- FX65 LD Vx, [I] (R165). -/
  | loadRegs (x : Reg)
  deriving DecidableEq, Repr

end Sys2Proof
end

