-- ==== Sys2Proof/Decode.lean ====
section
/-! DEFINITION. The decoder (30_encoding.md R80 to R93), total on every byte sequence and rejecting by name; the opcode
table of R86 as data; the encoder. -/

namespace Sys2Proof

/-- Why a byte sequence is no instruction. -/
inductive DecodeError where
  /-- The 16-bit word matches no row of R86 (R89). -/
  | invalidOpcode (w : Word)
  /-- Fewer than two bytes are left (R80: every instruction is two bytes). -/
  | truncated
  deriving DecidableEq, Repr

/-- The register number a 4-bit field spells (R84). -/
def fieldReg (f : BitVec 4) : Reg := ⟨f.toNat, f.isLt⟩

/-- The 4-bit field that spells a register number. -/
def regField (r : Reg) : BitVec 4 := BitVec.ofNat 4 r.val

/-- `x = w[11:8]` (R82). -/
def fieldX (w : Word) : Reg := fieldReg (w.extractLsb' 8 4)

/-- `y = w[7:4]` (R82). -/
def fieldY (w : Word) : Reg := fieldReg (w.extractLsb' 4 4)

/-- `n = w[3:0]` (R82). -/
def fieldN (w : Word) : BitVec 4 := w.extractLsb' 0 4

/-- `nn = w[7:0]` (R82). -/
def fieldNN (w : Word) : Byte := w.extractLsb' 0 8

/-- `nnn = w[11:0]` (R82). -/
def fieldNNN (w : Word) : BitVec 12 := w.extractLsb' 0 12

/-- Group 0 of R85: two fixed words. -/
def decodeGroup0 (w : Word) : Option Instr :=
  if w = 0x00E0#16 then some .cls
  else if w = 0x00EE#16 then some .ret
  else none

/-- Group 8 of R85, by the minor opcode `w[3:0]`.
PRESUMED (log 4): the assignment of R87 is the spec's, from general knowledge of CHIP-8. -/
def decodeGroup8 (w : Word) : Option Instr :=
  match (fieldN w).toNat with
  | 0x0 => some (.ldReg (fieldX w) (fieldY w))
  | 0x1 => some (.orReg (fieldX w) (fieldY w))
  | 0x2 => some (.andReg (fieldX w) (fieldY w))
  | 0x3 => some (.xorReg (fieldX w) (fieldY w))
  | 0x4 => some (.addReg (fieldX w) (fieldY w))
  | 0x5 => some (.sub (fieldX w) (fieldY w))
  | 0x6 => some (.shr (fieldX w) (fieldY w))
  | 0x7 => some (.subn (fieldX w) (fieldY w))
  | 0xE => some (.shl (fieldX w) (fieldY w))
  | _ => none

/-- Group E of R85, by the minor opcode `w[7:0]`. -/
def decodeGroupE (w : Word) : Option Instr :=
  match (fieldNN w).toNat with
  | 0x9E => some (.skp (fieldX w))
  | 0xA1 => some (.sknp (fieldX w))
  | _ => none

/-- Group F of R85, by the minor opcode `w[7:0]`. -/
def decodeGroupF (w : Word) : Option Instr :=
  match (fieldNN w).toNat with
  | 0x07 => some (.ldVxDt (fieldX w))
  | 0x0A => some (.ldVxK (fieldX w))
  | 0x15 => some (.ldDtVx (fieldX w))
  | 0x18 => some (.ldStVx (fieldX w))
  | 0x1E => some (.addI (fieldX w))
  | 0x29 => some (.ldF (fieldX w))
  | 0x33 => some (.ldB (fieldX w))
  | 0x55 => some (.storeRegs (fieldX w))
  | 0x65 => some (.loadRegs (fieldX w))
  | _ => none

/-- The algorithm of R85 on one instruction word, by the top nibble; `none` is the spec's `Invalid`. -/
def decode? (w : Word) : Option Instr :=
  match (w.extractLsb' 12 4).toNat with
  | 0x0 => decodeGroup0 w
  | 0x1 => some (.jp (fieldNNN w))
  | 0x2 => some (.call (fieldNNN w))
  | 0x3 => some (.seImm (fieldX w) (fieldNN w))
  | 0x4 => some (.sneImm (fieldX w) (fieldNN w))
  | 0x5 => if fieldN w = 0#4 then some (.seReg (fieldX w) (fieldY w)) else none
  | 0x6 => some (.ldImm (fieldX w) (fieldNN w))
  | 0x7 => some (.addImm (fieldX w) (fieldNN w))
  | 0x8 => decodeGroup8 w
  | 0x9 => if fieldN w = 0#4 then some (.sneReg (fieldX w) (fieldY w)) else none
  | 0xA => some (.ldI (fieldNNN w))
  | 0xB => some (.jpV0 (fieldNNN w))
  | 0xC => some (.rnd (fieldX w) (fieldNN w))
  | 0xD => some (.drw (fieldX w) (fieldY w) (fieldN w).toNat)
  | 0xE => decodeGroupE w
  | 0xF => decodeGroupF w
  | _ => none

/-- Decoding of a word with the rejection named (R93). -/
def decodeWord (w : Word) : Except DecodeError Instr :=
  match decode? w with
  | some i => .ok i
  | none => .error (.invalidOpcode w)

/-- The word two bytes of memory spell: the byte at the lower address is bits 15:8 (20_memory.md R58, R81). -/
def wordOfBytes (hi lo : Byte) : Word := hi ++ lo

/-- The two bytes of a word in the order they lie in memory (R81). -/
def bytesOfWord (w : Word) : List Byte := [w.extractLsb' 8 8, w.extractLsb' 0 8]

/-- Decode the instruction at the head of a byte sequence and give the rest back. -/
def decode : List Byte → Except DecodeError (Instr × List Byte)
  | hi :: lo :: rest => (decodeWord (wordOfBytes hi lo)).map (fun i => (i, rest))
  | _ => .error .truncated

/-- The instruction word whose bits, as the opcode table numbers them, are the low `nbits` of `w`. -/
def tableWord (nbits w : Nat) : Word := BitVec.ofNat 16 (w % 2 ^ nbits)

/-- The instruction the decoder reads from the table word `w`, laid out in memory order. -/
def decodeTableWord (nbits w : Nat) : Option Instr :=
  match decode (bytesOfWord (tableWord nbits w)) with
  | .ok (i, _) => some i
  | .error _ => none

/-- One row of the opcode list R86: `w` is this instruction exactly when `w & mask = pattern`. -/
structure OpcodeRow where
  mnemonic : String
  pattern : Word
  mask : Word
  deriving DecidableEq, Repr

/-- The row a word matches (R86). -/
def OpcodeRow.accepts (r : OpcodeRow) (w : Word) : Bool := w &&& r.mask == r.pattern

/-- The row of each instruction, columns `mnemonic`, `match` and `mask` of spec/opcode_table.json (R86). -/
def Instr.row : Instr → OpcodeRow
  | .cls => ⟨"CLS", 0x00E0, 0xFFFF⟩
  | .ret => ⟨"RET", 0x00EE, 0xFFFF⟩
  | .jp _ => ⟨"JP_nnn", 0x1000, 0xF000⟩
  | .call _ => ⟨"CALL_nnn", 0x2000, 0xF000⟩
  | .seImm _ _ => ⟨"SE_Vx__nn", 0x3000, 0xF000⟩
  | .sneImm _ _ => ⟨"SNE_Vx__nn", 0x4000, 0xF000⟩
  | .seReg _ _ => ⟨"SE_Vx__Vy", 0x5000, 0xF00F⟩
  | .sneReg _ _ => ⟨"SNE_Vx__Vy", 0x9000, 0xF00F⟩
  | .ldImm _ _ => ⟨"LD_Vx__nn", 0x6000, 0xF000⟩
  | .addImm _ _ => ⟨"ADD_Vx__nn", 0x7000, 0xF000⟩
  | .ldReg _ _ => ⟨"LD_Vx__Vy", 0x8000, 0xF00F⟩
  | .orReg _ _ => ⟨"OR_Vx__Vy", 0x8001, 0xF00F⟩
  | .andReg _ _ => ⟨"AND_Vx__Vy", 0x8002, 0xF00F⟩
  | .xorReg _ _ => ⟨"XOR_Vx__Vy", 0x8003, 0xF00F⟩
  | .addReg _ _ => ⟨"ADD_Vx__Vy", 0x8004, 0xF00F⟩
  | .sub _ _ => ⟨"SUB_Vx__Vy", 0x8005, 0xF00F⟩
  | .shr _ _ => ⟨"SHR_Vx__Vy", 0x8006, 0xF00F⟩
  | .subn _ _ => ⟨"SUBN_Vx__Vy", 0x8007, 0xF00F⟩
  | .shl _ _ => ⟨"SHL_Vx__Vy", 0x800E, 0xF00F⟩
  | .ldI _ => ⟨"LD_I__nnn", 0xA000, 0xF000⟩
  | .jpV0 _ => ⟨"JP_V0__nnn", 0xB000, 0xF000⟩
  | .rnd _ _ => ⟨"RND_Vx__nn", 0xC000, 0xF000⟩
  | .drw _ _ _ => ⟨"DRW_Vx__Vy__n", 0xD000, 0xF000⟩
  | .skp _ => ⟨"SKP_Vx", 0xE09E, 0xF0FF⟩
  | .sknp _ => ⟨"SKNP_Vx", 0xE0A1, 0xF0FF⟩
  | .ldVxDt _ => ⟨"LD_Vx__DT", 0xF007, 0xF0FF⟩
  | .ldDtVx _ => ⟨"LD_DT__Vx", 0xF015, 0xF0FF⟩
  | .ldStVx _ => ⟨"LD_ST__Vx", 0xF018, 0xF0FF⟩
  | .addI _ => ⟨"ADD_I__Vx", 0xF01E, 0xF0FF⟩
  | .ldVxK _ => ⟨"LD_Vx__K", 0xF00A, 0xF0FF⟩
  | .ldF _ => ⟨"LD_F__Vx", 0xF029, 0xF0FF⟩
  | .ldB _ => ⟨"LD_B__Vx", 0xF033, 0xF0FF⟩
  | .storeRegs _ => ⟨"LD__I___Vx", 0xF055, 0xF0FF⟩
  | .loadRegs _ => ⟨"LD_Vx___I", 0xF065, 0xF0FF⟩

/-- One instruction of each row, in the table's order: the index set of the opcode list (R86). -/
def oneOfEachRow : List Instr :=
  [.cls, .ret, .jp 0, .call 0, .seImm 0 0, .sneImm 0 0, .seReg 0 0, .sneReg 0 0, .ldImm 0 0, .addImm 0 0] ++
  [.ldReg 0 0, .orReg 0 0, .andReg 0 0, .xorReg 0 0, .addReg 0 0, .sub 0 0, .shr 0 0, .subn 0 0, .shl 0 0] ++
  [.ldI 0, .jpV0 0, .rnd 0 0, .drw 0 0 0, .skp 0, .sknp 0, .ldVxDt 0, .ldDtVx 0, .ldStVx 0, .addI 0, .ldVxK 0] ++
  [.ldF 0, .ldB 0, .storeRegs 0, .loadRegs 0]

/-- The opcode list R86: 34 rows. -/
def opcodeTable : List OpcodeRow := oneOfEachRow.map Instr.row

/-- Format A of R83: `op nnn`. -/
def formatA (op : BitVec 4) (nnn : BitVec 12) : Word := op ++ nnn

/-- Format I of R83: `op x nn`; also format K, whose `nn` is a fixed minor opcode. -/
def formatI (op : BitVec 4) (x : Reg) (nn : Byte) : Word := (op ++ regField x) ++ nn

/-- Format R of R83: `op x y minor`; also format D, whose low nibble is the operand `n`. -/
def formatR (op : BitVec 4) (x y : Reg) (minor : BitVec 4) : Word := (op ++ regField x) ++ (regField y ++ minor)

/-- The word of a well-formed instruction, from the formats of R83 and the fixed bits of R86. -/
def encode : Instr → Word
  | .cls => 0x00E0#16
  | .ret => 0x00EE#16
  | .jp nnn => formatA 0x1 nnn
  | .call nnn => formatA 0x2 nnn
  | .seImm x nn => formatI 0x3 x nn
  | .sneImm x nn => formatI 0x4 x nn
  | .seReg x y => formatR 0x5 x y 0x0
  | .sneReg x y => formatR 0x9 x y 0x0
  | .ldImm x nn => formatI 0x6 x nn
  | .addImm x nn => formatI 0x7 x nn
  | .ldReg x y => formatR 0x8 x y 0x0
  | .orReg x y => formatR 0x8 x y 0x1
  | .andReg x y => formatR 0x8 x y 0x2
  | .xorReg x y => formatR 0x8 x y 0x3
  | .addReg x y => formatR 0x8 x y 0x4
  | .sub x y => formatR 0x8 x y 0x5
  | .shr x y => formatR 0x8 x y 0x6
  | .subn x y => formatR 0x8 x y 0x7
  | .shl x y => formatR 0x8 x y 0xE
  | .ldI nnn => formatA 0xA nnn
  | .jpV0 nnn => formatA 0xB nnn
  | .rnd x nn => formatI 0xC x nn
  | .drw x y n => formatR 0xD x y (BitVec.ofNat 4 n)
  | .skp x => formatI 0xE x 0x9E
  | .sknp x => formatI 0xE x 0xA1
  | .ldVxDt x => formatI 0xF x 0x07
  | .ldDtVx x => formatI 0xF x 0x15
  | .ldStVx x => formatI 0xF x 0x18
  | .addI x => formatI 0xF x 0x1E
  | .ldVxK x => formatI 0xF x 0x0A
  | .ldF x => formatI 0xF x 0x29
  | .ldB x => formatI 0xF x 0x33
  | .storeRegs x => formatI 0xF x 0x55
  | .loadRegs x => formatI 0xF x 0x65

end Sys2Proof
end

