-- ==== Sys2Proof/Config.lean ====
section
/-! DEFINITION. The open parameters of the hardware (00_scope.md R8): five Boolean toggles and the font bytes, as plain
data that a state carries and no operation changes, and the one free value, the random byte of CXNN. -/

namespace Sys2Proof

/-- The configuration parameters of R8. They are no state of the core (10_state.md R34): every operation leaves them alone. -/
structure Config where
  /-- `Q_SHIFT_VY`: SHR and SHL shift Vy into Vx instead of Vx in place. -/
  shiftVy : Bool
  /-- `Q_JUMP_VX`: BNNN adds Vx, x the top nibble of nnn, instead of V0. -/
  jumpVx : Bool
  /-- `Q_LDST_INC`: FX55 and FX65 add x + 1 to I. -/
  ldstInc : Bool
  /-- `Q_FX1E_VF`: FX1E writes VF. -/
  fx1eVf : Bool
  /-- `Q_CLIP`: sprite pixels beyond the right or bottom edge are not drawn. -/
  clip : Bool
  /-- `FONT`: what reset puts at 0x050 to 0x09F. -/
  font : Vector Byte 80
  deriving DecidableEq, Repr

/-- The default `FONT` of 20_memory.md R56, glyphs 0 to F, five rows each.
PRESUMED (log 1): the spec takes these bytes from general knowledge of CHIP-8, its source gives none. -/
def Config.defaultFont : Vector Byte 80 :=
  (#v[0xF0, 0x90, 0x90, 0x90, 0xF0,  0x20, 0x60, 0x20, 0x20, 0x70,  0xF0, 0x10, 0xF0, 0x80, 0xF0,  0xF0, 0x10, 0xF0, 0x10, 0xF0] : Vector Byte 20) ++
  (#v[0x90, 0x90, 0xF0, 0x10, 0x10,  0xF0, 0x80, 0xF0, 0x10, 0xF0,  0xF0, 0x80, 0xF0, 0x90, 0xF0,  0xF0, 0x10, 0x20, 0x40, 0x40] : Vector Byte 20) ++
  (#v[0xF0, 0x90, 0xF0, 0x90, 0xF0,  0xF0, 0x90, 0xF0, 0x10, 0xF0,  0xF0, 0x90, 0xF0, 0x90, 0x90,  0xE0, 0x90, 0xE0, 0x90, 0xE0] : Vector Byte 20) ++
  (#v[0xF0, 0x80, 0x80, 0x80, 0xF0,  0xE0, 0x90, 0x90, 0x90, 0xE0,  0xF0, 0x80, 0xF0, 0x80, 0xF0,  0xF0, 0x80, 0xF0, 0x80, 0x80] : Vector Byte 20)

/-- The default configuration (R8): every toggle false. DESIGN CHOICE of the spec for `Q_LDST_INC` and `Q_CLIP` (log 2). -/
def Config.default : Config where
  shiftVy := false
  jumpVx := false
  ldstInc := false
  fx1eVf := false
  clip := false
  font := Config.defaultFont

/-- `draw8()` of R10: the byte the n-th executed CXNN draws from outside the state. A free value: it has no body, so no
proof can use what it is; `State.draws` is its argument (42_register_alu.md R152, 93_implementation_defined.md U7; log 3). -/
opaque Config.draw8 : Nat → Byte

end Sys2Proof
end

