-- ==== Sys2Proof/Machine/State.lean ====
section
/-! DEFINITION. The state of the machine as plain data (10_state.md R20 to R38), the reasons a step can stop, and the state
after reset (R36). The ten items of R20 come first; the fields after them are the model's own: the configuration (R8, R34),
the counter that indexes the free values of CXNN (R35), and what the host has lined up (R100, R209). -/

namespace Sys2Proof.Machine

/-- The key-wait state `WAIT` (R31). -/
inductive Wait where
  /-- Not waiting: `cycle` fetches and executes. -/
  | run
  /-- An FX0A with register field `x` waits for a press edge: `cycle` does nothing. -/
  | awaitKey (x : Reg)
  /-- A press edge on `k` arrived: the next `cycle` writes V[x]. -/
  | keyCaptured (x : Reg) (k : Key)
  deriving DecidableEq, Repr

/-- One row of the framebuffer: pixel `x` of the row is bit `x` (column 0 is the left, R30). -/
abbrev FrameRow := BitVec 64

/-- `FB` (R30): 32 rows of 64 one-bit pixels; row 0 is the top. -/
abbrev Frame := Vector FrameRow 32

/-- The six operations by which the host drives the core (40_operations.md R100), with their arguments. -/
inductive HostOp where
  | reset
  | load (bytes : List Byte)
  | cycle
  | tickTimers
  | setKey (k : Int) (pressed : Bool)
  | framebufferSnapshot
  deriving DecidableEq, Repr

/-- What the host does when an operation reports an error (60_exceptions.md R200, R209): the policy is the host's. -/
inductive ErrorPolicy where
  /-- End the run: the step answers the fault (the reading 93_implementation_defined.md U6 recommends). -/
  | halt
  /-- Go on from the state of R208. -/
  | goOn
  deriving DecidableEq, Repr

/-- The five errors (60_exceptions.md R206), each with the value it carries. A step answers one of them only where the host's
policy is to halt; all five are safe: the core itself would go on (R209), so a claim can only become unprovable. -/
inductive Fault where
  /-- Raised by `load` for a ROM of more than 3584 bytes (R201); carries its length. Safe. -/
  | romTooLarge (length : Nat)
  /-- Raised by 2NNN when the stack holds 16 entries (R202). Safe. -/
  | stackOverflow
  /-- Raised by 00EE when the stack is empty (R203). Safe. -/
  | stackUnderflow
  /-- Raised by `cycle` when the fetched word is no instruction (R204); carries the word. Safe. -/
  | invalidOpcode (w : Word)
  /-- Raised by the fetch, DXYN, FX33, FX55 and FX65 for an address above 0xFFF, and by EX9E and EXA1 for a key index above
  15 (R205); carries the address or index. Safe. -/
  | outOfBounds (info : Nat)
  deriving DecidableEq, Repr

/-- Reasons the model has no answer. -/
inductive Refusal where
  /-- An arm of `exec` whose instruction has no meaning yet; no arm of this model answers it. Safe. -/
  | notModelled (mnemonic : String)
  deriving DecidableEq, Repr

structure State where
  /-- `V[0]` to `V[15]` (R21). -/
  v : Vector Byte 16
  /-- The index register `I` (R24). -/
  i : Word
  /-- The program counter (R25). -/
  pc : Word
  /-- `STACK` (R27), the entry pushed last at the head (DESIGN CHOICE of layout, log 5). -/
  stack : List Word
  /-- The delay timer `DT` (R28). -/
  dt : Byte
  /-- The sound timer `ST` (R28). -/
  st : Byte
  /-- The framebuffer `FB` (R30). -/
  fb : Frame
  /-- The keypad flags `KEY[0]` to `KEY[15]`, true for pressed (R32). -/
  key : Vector Bool 16
  /-- The key-wait state `WAIT` (R31). -/
  wait : Wait
  /-- The memory `M` (R33) as the cells that differ from what reset leaves, in canonical form (`Memory.wf`). -/
  mem : List Host.Cell
  /-- MODEL's own: the configuration parameters (R34); no operation changes it. -/
  cfg : Config
  /-- MODEL's own: how many random bytes CXNN has drawn (R35; log 3). -/
  draws : Nat
  /-- MODEL's own: the operations the host will invoke next, first at the head; with none left it invokes `cycle` (log 6). -/
  pending : List HostOp
  /-- MODEL's own: what the host does on an error (log 7). -/
  policy : ErrorPolicy
  deriving DecidableEq, Repr

/-- The ten items of R20 at the values of R36, with the model's own fields as given. The zeros of V, I, DT, ST, FB and KEY, the
empty stack and `Run` are the spec's decision D2 (DESIGN CHOICE, log 8); `pc` and the memory are its source's. -/
def State.resetWith (cfg : Config) (draws : Nat) (pending : List HostOp) (policy : ErrorPolicy) : State where
  v := Vector.replicate 16 0#8
  i := 0x0000#16
  pc := 0x0200#16
  stack := []
  dt := 0#8
  st := 0#8
  fb := Vector.replicate 32 0#64
  key := Vector.replicate 16 false
  wait := .run
  mem := []
  cfg := cfg
  draws := draws
  pending := pending
  policy := policy

/-- The machine right after reset, in the default configuration, with a host that halts on an error. -/
def State.reset : State := State.resetWith Config.default 0 [] .halt

end Sys2Proof.Machine
end

