-- ==== Sys2Proof/Machine/Ops.lean ====
section
/-! DEFINITION. The named operations over registers, memory, the stack and `pc` from which every meaning is built, and the one
operation that raises an error (60_exceptions.md R208). -/

namespace Sys2Proof.Machine

/-- The three outcomes at this machine's types. -/
abbrev Result := Host.Outcome State Fault Refusal

/-! ### Fields -/

/-- `V[x]` (R10, R21). -/
def State.reg (s : State) (x : Reg) : Byte := s.v[x.val]

/-- `V[x] <- b`. -/
def State.setReg (s : State) (x : Reg) (b : Byte) : State := { s with v := s.v.set x.val b }

/-- `I <- w`. -/
def State.setI (s : State) (w : Word) : State := { s with i := w }

/-- `pc <- w`. -/
def State.setPc (s : State) (w : Word) : State := { s with pc := w }

/-- The stack as a whole. -/
def State.setStack (s : State) (l : List Word) : State := { s with stack := l }

/-- `DT <- b`. -/
def State.setDt (s : State) (b : Byte) : State := { s with dt := b }

/-- `ST <- b`. -/
def State.setSt (s : State) (b : Byte) : State := { s with st := b }

/-- The framebuffer as a whole. -/
def State.setFb (s : State) (f : Frame) : State := { s with fb := f }

/-- `KEY[k] <- p`. -/
def State.setKeyFlag (s : State) (k : Key) (p : Bool) : State := { s with key := s.key.set k.val p }

/-- `WAIT <- w`. -/
def State.setWait (s : State) (w : Wait) : State := { s with wait := w }

/-- The memory's cells as a whole. -/
def State.setMem (s : State) (m : List Host.Cell) : State := { s with mem := m }

/-- One random byte more has been drawn. -/
def State.bumpDraws (s : State) : State := { s with draws := s.draws + 1 }

/-- The host's remaining operations. -/
def State.setPending (s : State) (l : List HostOp) : State := { s with pending := l }

/-- `KEY[k]` (R32). -/
def State.keyFlag (s : State) (k : Key) : Bool := s.key[k.val]

/-- The output TONE, `b2i(ST > 0)` (R29). -/
def State.tone (s : State) : Bool := decide (0 < s.st.toNat)

/-! ### Memory (20_memory.md R50 to R67) -/

/-- What an address that the cell list does not name reads as: what reset leaves there, the font at 0x050 to 0x09F and zero
everywhere else (R36, R55, R56). -/
def unlistedByte (font : Vector Byte 80) (a : Nat) : Byte :=
  if h : 0x050 ≤ a ∧ a ≤ 0x09F then font[a - 0x050] else 0#8

/-- The byte listed for an address, if there is one. -/
def Memory.find : List Host.Cell → Nat → Option Byte
  | [], _ => none
  | (k, b) :: m, a => if k = a then some b else Memory.find m a

/-- List a byte for an address, keeping the addresses rising. -/
def Memory.insert : List Host.Cell → Nat → Byte → List Host.Cell
  | [], a, b => [(a, b)]
  | (k, c) :: m, a, b =>
    if a < k then (a, b) :: (k, c) :: m
    else if a = k then (a, b) :: m
    else (k, c) :: Memory.insert m a b

/-- Drop an address from the list. -/
def Memory.erase : List Host.Cell → Nat → List Host.Cell
  | [], _ => []
  | (k, c) :: m, a => if k = a then Memory.erase m a else (k, c) :: Memory.erase m a

/-- The byte at an address. -/
def Memory.read (font : Vector Byte 80) (m : List Host.Cell) (a : Nat) : Byte :=
  (Memory.find m a).getD (unlistedByte font a)

/-- Put a byte at an address, keeping the canonical form. -/
def Memory.write (font : Vector Byte 80) (m : List Host.Cell) (a : Nat) (b : Byte) : List Host.Cell :=
  if b = unlistedByte font a then Memory.erase m a else Memory.insert m a b

/-- The canonical form: addresses strictly rising and inside 0x000 to 0xFFF, no cell equal to what its address reads as unlisted. -/
abbrev Memory.wf (font : Vector Byte 80) (m : List Host.Cell) : Prop :=
  (m.map Prod.fst).Pairwise (· < ·) ∧ (∀ c ∈ m, c.1 ≤ 0xFFF ∧ c.2 ≠ unlistedByte font c.1)

/-- `M[a]`, that is `MemRead(a, 1)` (R52); its callers have tested the bound (R54). -/
def State.readByte (s : State) (a : Nat) : Byte := Memory.read s.cfg.font s.mem a

/-- `MemWrite(a, 1, b)` (R53); its callers have tested the bound (R54). -/
def State.writeByte (s : State) (a : Nat) (b : Byte) : State := s.setMem (Memory.write s.cfg.font s.mem a b)

/-- Put bytes at rising addresses from `a` on. -/
def Memory.writeAll (font : Vector Byte 80) (m : List Host.Cell) (a : Nat) : List Byte → List Host.Cell
  | [] => m
  | b :: bs => Memory.writeAll font (Memory.write font m a b) (a + 1) bs

/-- Byte writes at rising addresses from `a` on: the only multi-byte store there is (R53, R60). -/
def State.storeBytes (s : State) (a : Nat) (bs : List Byte) : State := s.setMem (Memory.writeAll s.cfg.font s.mem a bs)

/-- `V[j] <- M[base + j]` for the first `count` registers (43_index_memory.md R165). -/
def State.loadBytes (s : State) (base : Nat) : Nat → State
  | 0 => s
  | count + 1 => (s.loadBytes base count).setReg (Fin.ofNat 16 count) (s.readByte (base + count))

/-! ### Errors (60_exceptions.md R200 to R209) -/

/-- `raise <Error>(info)` of R10: the operation ends with the error's name and has written nothing. There is no handler, no
vector and no saved state (R200); the state the error leaves is `afterError`. -/
def raise (f : Fault) : Result := .fault f

/-- The bounds rule R54: go on only when the highest address (or index) touched is at most `limit`. -/
def guardBound (limit last : Nat) (k : Result) : Result := if limit < last then raise (.outOfBounds last) else k

/-- The numeric code of an error (R206). DESIGN CHOICE of the spec (its decision D16; log 13). -/
def Fault.code : Fault → Nat
  | .romTooLarge _ => 1
  | .stackOverflow => 2
  | .stackUnderflow => 3
  | .invalidOpcode _ => 4
  | .outOfBounds _ => 5

/-- The numeric status of an operation's result (R206, 40_operations.md R112): 0 is `Ok`, else the error's code. A refusal is no
result of the hardware and has none. DESIGN CHOICE of the spec (its decision D16; log 13). -/
def resultStatus (r : Result) : Option Nat :=
  match r with
  | .next _ => some 0
  | .fault f => some f.code
  | .refused _ => none

/-! ### Fetching and the program counter -/

/-- Both bytes of the instruction at `pc` exist (40_operations.md R104). -/
abbrev State.canFetch (s : State) : Prop := s.pc.toNat ≤ 0xFFE

/-- `MemRead(pc, 2)`, big-endian (R104, 20_memory.md R58). -/
def State.fetchWord (s : State) : Word := wordOfBytes (s.readByte s.pc.toNat) (s.readByte (s.pc.toNat + 1))

/-- `pc <- pc + 2`: the pre-advance of R105, and what a taken skip adds once more. -/
def State.advance (s : State) : State := s.setPc (s.pc + 2)

/-- The skip of R124 to R127, R190 and R191: `pc` moves past the next instruction when the condition holds. -/
def State.skipIf (s : State) (c : Bool) : State := if c then s.advance else s

/-- What an error raised by a `cycle` leaves (R208): the pre-advance is kept when the fetch succeeded, nothing else differs. -/
def State.afterCycleError (s : State) : State := if s.canFetch then s.advance else s

/-! ### The call stack (R27) -/

/-- `STACK.push(w)`, refused by the stack's capacity of 16 (R123). -/
def pushReturn (w : Word) (s : State) (k : State → Result) : Result :=
  if s.stack.length < 16 then k (s.setStack (w :: s.stack)) else raise .stackOverflow

/-- `STACK.pop()` (R121). -/
def popReturn (s : State) (k : Word → State → Result) : Result :=
  match s.stack with
  | [] => raise .stackUnderflow
  | w :: rest => k w (s.setStack rest)

end Sys2Proof.Machine
end

