-- ==== Sys2Proof/Machine/Operands.lean ====
section
/-! DEFINITION. The operand forms: immediates, the register a toggle selects, the one addressing mode, the font address, the
decimal digits, the sprite's start coordinate. -/

namespace Sys2Proof.Machine

/-- A 12-bit address immediate, zero-extended to 16 bits (30_encoding.md R84). -/
def addr16 (nnn : BitVec 12) : Word := nnn.setWidth 16

/-- A byte, zero-extended to 16 bits (R84). -/
def zext16 (b : Byte) : Word := b.setWidth 16

/-- Bits 11:8 of BNNN's word, the top nibble of its `nnn` (R83). -/
def topNibble (nnn : BitVec 12) : Reg := fieldReg (nnn.extractLsb' 8 4)

/-- The register BNNN adds: V0, or Vx when `Q_JUMP_VX` (41_control_flow.md R128). -/
def jumpReg (s : State) (nnn : BitVec 12) : Reg := if s.cfg.jumpVx then topNibble nnn else 0

/-- The value SHR and SHL shift: Vx, or Vy when `Q_SHIFT_VY` (42_register_alu.md R149, R151). -/
def shiftSource (s : State) (x y : Reg) : Byte := if s.cfg.shiftVy then s.reg y else s.reg x

/-- The effective address of byte `j`: the integer `I + j`, not reduced (43_index_memory.md R166). -/
def effAddr (s : State) (j : Nat) : Nat := s.i.toNat + j

/-- `I` after FX55 and FX65: past the last byte moved when `Q_LDST_INC`, else unchanged (R164, R165). -/
def indexAfter (s : State) (x : Reg) : Word :=
  if s.cfg.ldstInc then BitVec.ofNat 16 (s.i.toNat + x.val + 1) else s.i

/-- The address of the glyph for the low nibble of a byte (R162). -/
def glyphAddr (b : Byte) : Word := BitVec.ofNat 16 (0x050 + 5 * (b.toNat % 16))

/-- Hundreds, tens and units of a byte (R163). -/
def digits (b : Byte) : List Byte :=
  [BitVec.ofNat 8 (b.toNat / 100), BitVec.ofNat 8 (b.toNat / 10 % 10), BitVec.ofNat 8 (b.toNat % 10)]

/-- V0 to Vx in order, as FX55 stores them (R164). -/
def regsUpTo (s : State) (x : Reg) : List Byte := (List.range (x.val + 1)).map (fun j => s.reg (Fin.ofNat 16 j))

/-- The column a sprite starts in (44_display.md R182). -/
def startColumn (vx : Byte) : Nat := vx.toNat % 64

/-- The row a sprite starts in (R182). -/
def startRow (vy : Byte) : Nat := vy.toNat % 32

end Sys2Proof.Machine
end

