-- ==== Sys2Proof/Machine/Flags.lean ====
section
/-! DEFINITION. Every computation of VF, the machine's only flag (10_state.md R22), and the order in which a result and its
flag are written (42_register_alu.md R153). DXYN's collision flag is computed by the blit in Display.lean. -/

namespace Sys2Proof.Machine

/-- The carry of an 8-bit addition: the sum exceeds 255 (R140, R147). -/
def carry (a b : Byte) : Bool := decide (255 < a.toNat + b.toNat)

/-- NOT-borrow of `a − b`: the minuend is at least the subtrahend (R140, R148, R150). -/
def notBorrow (a b : Byte) : Bool := decide (b.toNat ≤ a.toNat)

/-- The bit SHR shifts out (R149). -/
def lowBit (a : Byte) : Bool := a.getLsbD 0

/-- The bit SHL shifts out (R151). -/
def highBit (a : Byte) : Bool := a.getLsbD 7

/-- The overflow past 0xFFF that FX1E reports when `Q_FX1E_VF` (43_index_memory.md R161). -/
def indexOverflow (i : Word) (b : Byte) : Bool := decide (0xFFF < i.toNat + b.toNat)

/-- `V[15] <- b2i(c)`. -/
def State.setFlag (s : State) (c : Bool) : State := s.setReg 15 (b2i c)

/-- The result first, the flag last, so that with x = 15 the flag survives.
DESIGN CHOICE of the spec (decision D8; log 9). -/
def State.setResultFlag (s : State) (x : Reg) (r : Byte) (c : Bool) : State := (s.setReg x r).setFlag c

end Sys2Proof.Machine
end

