-- ==== Sys2Proof/Machine/Alu.lean ====
section
/-! DEFINITION. Register load, arithmetic, logic, shift and random (42_register_alu.md). -/

namespace Sys2Proof.Machine

/-- 6XNN LD Vx, nn (R141). -/
def execLdImm (x : Reg) (nn : Byte) (s : State) : Result := .next (s.setReg x nn)

/-- 7XNN ADD Vx, nn, which writes no flag (R142). -/
def execAddImm (x : Reg) (nn : Byte) (s : State) : Result := .next (s.setReg x (s.reg x + nn))

/-- 8XY0 LD Vx, Vy (R143). -/
def execLdReg (x y : Reg) (s : State) : Result := .next (s.setReg x (s.reg y))

/-- 8XY1 OR Vx, Vy (R144). -/
def execOrReg (x y : Reg) (s : State) : Result := .next (s.setReg x (s.reg x ||| s.reg y))

/-- 8XY2 AND Vx, Vy (R145). -/
def execAndReg (x y : Reg) (s : State) : Result := .next (s.setReg x (s.reg x &&& s.reg y))

/-- 8XY3 XOR Vx, Vy (R146). -/
def execXorReg (x y : Reg) (s : State) : Result := .next (s.setReg x (s.reg x ^^^ s.reg y))

/-- 8XY4 ADD Vx, Vy (R147). -/
def execAddReg (x y : Reg) (s : State) : Result :=
  .next (s.setResultFlag x (s.reg x + s.reg y) (carry (s.reg x) (s.reg y)))

/-- 8XY5 SUB Vx, Vy: Vx is the minuend (R148). -/
def execSub (x y : Reg) (s : State) : Result :=
  .next (s.setResultFlag x (s.reg x - s.reg y) (notBorrow (s.reg x) (s.reg y)))

/-- 8XY6 SHR Vx, Vy (R149). -/
def execShr (x y : Reg) (s : State) : Result :=
  .next (s.setResultFlag x (shiftSource s x y >>> 1) (lowBit (shiftSource s x y)))

/-- 8XY7 SUBN Vx, Vy: Vy is the minuend (R150). -/
def execSubn (x y : Reg) (s : State) : Result :=
  .next (s.setResultFlag x (s.reg y - s.reg x) (notBorrow (s.reg y) (s.reg x)))

/-- 8XYE SHL Vx, Vy (R151). -/
def execShl (x y : Reg) (s : State) : Result :=
  .next (s.setResultFlag x (shiftSource s x y <<< 1) (highBit (shiftSource s x y)))

/-- CXNN RND Vx, nn: the byte drawn is a free value (R152; log 3). -/
def execRnd (x : Reg) (nn : Byte) (s : State) : Result :=
  .next (s.bumpDraws.setReg x (Config.draw8 s.draws &&& nn))

end Sys2Proof.Machine
end

