-- ==== Sys2Proof/Machine/Control.lean ====
section
/-! DEFINITION. The control-flow instructions (41_control_flow.md). In every meaning `s.pc` is already the address after the
instruction (40_operations.md R105). -/

namespace Sys2Proof.Machine

/-- 00EE RET (R121). -/
def execRet (s : State) : Result := popReturn s (fun w t => .next (t.setPc w))

/-- 1NNN JP nnn (R122). -/
def execJp (nnn : BitVec 12) (s : State) : Result := .next (s.setPc (addr16 nnn))

/-- 2NNN CALL nnn (R123). -/
def execCall (nnn : BitVec 12) (s : State) : Result := pushReturn s.pc s (fun t => .next (t.setPc (addr16 nnn)))

/-- 3XNN SE Vx, nn (R124). -/
def execSeImm (x : Reg) (nn : Byte) (s : State) : Result := .next (s.skipIf (s.reg x == nn))

/-- 4XNN SNE Vx, nn (R125). -/
def execSneImm (x : Reg) (nn : Byte) (s : State) : Result := .next (s.skipIf (s.reg x != nn))

/-- 5XY0 SE Vx, Vy (R126). -/
def execSeReg (x y : Reg) (s : State) : Result := .next (s.skipIf (s.reg x == s.reg y))

/-- 9XY0 SNE Vx, Vy (R127). -/
def execSneReg (x y : Reg) (s : State) : Result := .next (s.skipIf (s.reg x != s.reg y))

/-- BNNN JP V0, nnn (R128). -/
def execJpV0 (nnn : BitVec 12) (s : State) : Result :=
  .next (s.setPc (addr16 nnn + zext16 (s.reg (jumpReg s nnn))))

end Sys2Proof.Machine
end

