-- ==== Sys2Proof/Machine/Display.lean ====
section
/-! DEFINITION. The framebuffer and the two display instructions (44_display.md). -/

namespace Sys2Proof.Machine

/-- All pixels unset (R181). -/
def Frame.clear : Frame := Vector.replicate 32 0#64

/-- `FB[y][x]` (10_state.md R30). -/
def Frame.pixel (f : Frame) (y : Fin 32) (x : Fin 64) : Bool := (f[y.val]).getLsbD x.val

/-- `FB[y][x] <- p`. -/
def Frame.setPixel (f : Frame) (y : Fin 32) (x : Fin 64) (p : Bool) : Frame :=
  f.set y.val (if p then f[y.val] ||| (1#64 <<< x.val) else f[y.val] &&& ~~~(1#64 <<< x.val))

/-- A blit in progress: the framebuffer so far and whether a pixel has been unset (R182's `hit`). -/
structure Blit where
  frame : Frame
  hit : Bool
  deriving DecidableEq, Repr

/-- Bit `7 − c` of a sprite byte is sprite column `c` (R182). PRESUMED by the spec (its decision D18; log 10). -/
def spriteBit (b : Byte) (c : Nat) : Bool := b.getLsbD (7 - c)

/-- One sprite pixel: skipped beyond an edge when `Q_CLIP`, else XORed into the pixel the wrapped coordinates name (R182). -/
def blitPixel (clip : Bool) (x0 y0 r : Nat) (b : Byte) (acc : Blit) (c : Nat) : Blit :=
  if clip && (decide (63 < x0 + c) || decide (31 < y0 + r)) then acc
  else
    let px := Fin.ofNat 64 (x0 + c)
    let py := Fin.ofNat 32 (y0 + r)
    let old := acc.frame.pixel py px
    { frame := acc.frame.setPixel py px (old ^^ spriteBit b c)
      hit := acc.hit || (old && spriteBit b c) }

/-- One sprite row: its eight columns, left to right (R182). -/
def blitRow (clip : Bool) (x0 y0 r : Nat) (b : Byte) (acc : Blit) : Blit :=
  (List.range 8).foldl (blitPixel clip x0 y0 r b) acc

/-- The whole sprite of `n` rows, row `r` being the byte `sprite r` (R182). -/
def blit (clip : Bool) (x0 y0 n : Nat) (sprite : Nat → Byte) (f : Frame) : Blit :=
  (List.range n).foldl (fun acc r => blitRow clip x0 y0 r (sprite r) acc) ⟨f, false⟩

/-- The blit DXYN performs in a state: start coordinates from Vx and Vy, rows from `I` on (R182). -/
def drawSprite (x y : Reg) (n : Nat) (s : State) : Blit :=
  blit s.cfg.clip (startColumn (s.reg x)) (startRow (s.reg y)) n (fun r => s.readByte (effAddr s r)) s.fb

/-- The bounds test of DXYN: none for n = 0, else the last sprite byte (R182, 20_memory.md R54). -/
def guardSprite (s : State) (n : Nat) (k : Result) : Result :=
  match n with
  | 0 => k
  | m + 1 => guardBound 0xFFF (effAddr s m) k

/-- 00E0 CLS (R181). -/
def execCls (s : State) : Result := .next (s.setFb Frame.clear)

/-- DXYN DRW Vx, Vy, n (R182). -/
def execDrw (x y : Reg) (n : Nat) (s : State) : Result :=
  guardSprite s n (.next ((s.setFb (drawSprite x y n s).frame).setFlag (drawSprite x y n s).hit))

end Sys2Proof.Machine
end

