-- ==== Sys2Proof/Machine/IndexMemory.lean ====
section
/-! DEFINITION. The index-register and memory instructions (43_index_memory.md). Each tests the whole range it will touch
before its first access (R166). -/

namespace Sys2Proof.Machine

/-- ANNN LD I, nnn (R160). -/
def execLdI (nnn : BitVec 12) (s : State) : Result := .next (s.setI (addr16 nnn))

/-- FX1E ADD I, Vx; VF only when `Q_FX1E_VF` (R161). -/
def execAddI (x : Reg) (s : State) : Result :=
  .next
    (if s.cfg.fx1eVf then (s.setI (s.i + zext16 (s.reg x))).setFlag (indexOverflow s.i (s.reg x))
     else s.setI (s.i + zext16 (s.reg x)))

/-- FX29 LD F, Vx (R162). -/
def execLdF (x : Reg) (s : State) : Result := .next (s.setI (glyphAddr (s.reg x)))

/-- FX33 LD B, Vx (R163). -/
def execLdB (x : Reg) (s : State) : Result :=
  guardBound 0xFFF (effAddr s 2) (.next (s.storeBytes (effAddr s 0) (digits (s.reg x))))

/-- FX55 LD [I], Vx (R164). -/
def execStoreRegs (x : Reg) (s : State) : Result :=
  guardBound 0xFFF (effAddr s x.val)
    (.next ((s.storeBytes (effAddr s 0) (regsUpTo s x)).setI (indexAfter s x)))

/-- FX65 LD Vx, [I] (R165). -/
def execLoadRegs (x : Reg) (s : State) : Result :=
  guardBound 0xFFF (effAddr s x.val)
    (.next ((s.loadBytes (effAddr s 0) (x.val + 1)).setI (indexAfter s x)))

end Sys2Proof.Machine
end

