-- ==== Sys2Proof/Machine/KeypadTimers.lean ====
section
/-! DEFINITION. The keypad and timer instructions (45_keypad_timers.md). -/

namespace Sys2Proof.Machine

/-- The key a register value names; a value above 15 is out of bounds, never masked (R190; DESIGN CHOICE of the spec, D13, log 11). -/
def withKey (b : Byte) (k : Key → Result) : Result := guardBound 15 b.toNat (k (Fin.ofNat 16 b.toNat))

/-- EX9E SKP Vx (R190). -/
def execSkp (x : Reg) (s : State) : Result := withKey (s.reg x) (fun k => .next (s.skipIf (s.keyFlag k)))

/-- EXA1 SKNP Vx (R191). -/
def execSknp (x : Reg) (s : State) : Result := withKey (s.reg x) (fun k => .next (s.skipIf (!s.keyFlag k)))

/-- FX07 LD Vx, DT (R192). -/
def execLdVxDt (x : Reg) (s : State) : Result := .next (s.setReg x s.dt)

/-- FX15 LD DT, Vx (R193). -/
def execLdDtVx (x : Reg) (s : State) : Result := .next (s.setDt (s.reg x))

/-- FX18 LD ST, Vx (R194). -/
def execLdStVx (x : Reg) (s : State) : Result := .next (s.setSt (s.reg x))

/-- FX0A LD Vx, K: undo the pre-advance and wait (R195). -/
def execLdVxK (x : Reg) (s : State) : Result := .next ((s.setPc (s.pc - 2)).setWait (.awaitKey x))

end Sys2Proof.Machine
end

