-- ==== Sys2Proof/Machine/HostOps.lean ====
section
/-! DEFINITION. The host's operations other than `cycle` (40_operations.md R101, R102, R109 to R111). -/

namespace Sys2Proof.Machine

/-- `reset()` (R101): every item of the core at its reset value. The configuration, the count of random bytes drawn and what
the host has lined up are not the core's and stay (10_state.md R34, R35). -/
def hostReset (s : State) : State := State.resetWith s.cfg s.draws s.pending s.policy

/-- `load(bytes)` (R102). -/
def hostLoad (bytes : List Byte) (s : State) : Result :=
  if 3584 < bytes.length then raise (.romTooLarge bytes.length) else .next (s.storeBytes 0x200 bytes)

/-- One timer's tick: towards zero, never below (R109). -/
def tickDown (b : Byte) : Byte := if b = 0#8 then 0#8 else b - 1#8

/-- `tick_timers()` (R109). -/
def hostTick (s : State) : State := (s.setDt (tickDown s.dt)).setSt (tickDown s.st)

/-- `WAIT` after a press edge on `k`: it ends the wait of FX0A and nothing else (R110). -/
def waitAfterEdge (w : Wait) (k : Key) : Wait :=
  match w with
  | .run => .run
  | .awaitKey x => .keyCaptured x k
  | .keyCaptured x j => .keyCaptured x j

/-- `set_key(k, pressed)` for an index in range (R110). -/
def setKeyInRange (k : Key) (pressed : Bool) (s : State) : State :=
  if pressed && !s.keyFlag k then (s.setKeyFlag k pressed).setWait (waitAfterEdge s.wait k)
  else s.setKeyFlag k pressed

/-- `set_key(k, pressed)` for any integer: an index outside 0 to 15 has no effect (R110, 60_exceptions.md R216). -/
def hostSetKey (k : Int) (pressed : Bool) (s : State) : State :=
  if 0 ≤ k ∧ k ≤ 15 then setKeyInRange (Fin.ofNat 16 k.toNat) pressed s else s

/-- The pixels `framebuffer_snapshot()` returns, row-major: element `y * 64 + x` is `FB[y][x]` (R111, 20_memory.md R66).
The operation changes no state. -/
def snapshot (s : State) : List Bool :=
  (List.range 2048).map (fun j => s.fb.pixel (Fin.ofNat 32 (j / 64)) (Fin.ofNat 64 j))

end Sys2Proof.Machine
end

