-- ==== Sys2Proof/Machine/Cycle.lean ====
section
/-! DEFINITION. The operation `cycle` (40_operations.md R103 to R108), the six operations as one function (R100), and what the
host does with an error (60_exceptions.md R208, R209). -/

namespace Sys2Proof.Machine

/-- `cycle()` while `WAIT = Run`: fetch, pre-advance, decode, execute (R104 to R106). -/
def cycleRun (s : State) : Result :=
  if s.canFetch then
    match decodeWord s.fetchWord with
    | .ok i => exec i s.advance
    | .error _ => raise (.invalidOpcode s.fetchWord)
  else raise (.outOfBounds s.pc.toNat)

/-- `cycle()` while `WAIT = KeyCaptured(x, k)`: the FX0A completes (R108). -/
def completeKeyWait (x : Reg) (k : Key) (s : State) : State :=
  ((s.setReg x (BitVec.ofNat 8 k.val)).advance).setWait .run

/-- `cycle()` (R103, R107). -/
def cycle (s : State) : Result :=
  match s.wait with
  | .run => cycleRun s
  | .awaitKey _ => .next s
  | .keyCaptured x k => .next (completeKeyWait x k s)

/-- One operation of the host (R100). -/
def perform (op : HostOp) (s : State) : Result :=
  match op with
  | .reset => .next (hostReset s)
  | .load bytes => hostLoad bytes s
  | .cycle => cycle s
  | .tickTimers => .next (hostTick s)
  | .setKey k pressed => .next (hostSetKey k pressed s)
  | .framebufferSnapshot => .next s

/-- The state an error of the operation leaves (60_exceptions.md R208). -/
def afterError (op : HostOp) (s : State) : State :=
  match op with
  | .reset => s
  | .load _ => s
  | .cycle => s.afterCycleError
  | .tickTimers => s
  | .setKey _ _ => s
  | .framebufferSnapshot => s

/-- The operation the host invokes next: the first it has lined up, else `cycle` (log 6). -/
def State.nextOp (s : State) : HostOp := s.pending.headD .cycle

/-- The state the next operation finds: the host's list without it. -/
def State.popOp (s : State) : State := s.setPending s.pending.tail

/-- The host's reaction to an operation's result (R209): an error ends the run, or the run goes on from the state of R208. -/
def settleError (op : HostOp) (s : State) (r : Result) : Result :=
  match r with
  | .next t => .next t
  | .fault f =>
    match s.policy with
    | .halt => .fault f
    | .goOn => .next (afterError op s)
  | .refused q => .refused q

/-- One operation of the host, with its reaction to an error. -/
def runNextOp (s : State) : Result := settleError s.nextOp s.popOp (perform s.nextOp s.popOp)

/-- Where `withFetchWord` puts its word: at `pc` where a fetch can read there, else at the program base 0x200. -/
def fetchSite (s : State) : Word := if s.canFetch then s.pc else 0x0200#16

/-- `s` made ready to fetch and run the word `w` next: the word's two bytes at `pc`, no key wait, nothing lined up before it. -/
def placeWord (s : State) (w : Word) : State :=
  ((((s.setPc (fetchSite s)).storeBytes (fetchSite s).toNat (bytesOfWord w)).setWait .run).setPending [])

end Sys2Proof.Machine
end

