-- ==== Sys2Proof/Machine/Step.lean ====
section
/-! DEFINITION. One step of the machine: the host invokes one operation, `cycle` unless it has lined up another (40_operations.md
R100; log 6). Everything a repair could mend is in Cycle.lean and the files it imports. -/

namespace Sys2Proof.Machine

def step (s : State) : Host.Outcome State Fault Refusal := runNextOp s

/-- `s` with the instruction whose bits, as spec/opcode_table.json numbers them, are the low `nbits` of `w`, stored where `step`
fetches next. -/
def State.withFetchWord (s : State) (nbits w : Nat) : State := placeWord s (tableWord nbits w)

end Sys2Proof.Machine
end

