-- ==== Sys2Proof/Safety.lean ====
section
/-! DEFINITION. The terms claims are stated in: the parts of a state and what an operation leaves unchanged, the invariant of
10_state.md R37, a safe run, the word that spells an instruction, the pixels a sprite covers. -/

namespace Sys2Proof.Machine

/-- The parts of a state: every item of R20, down to the single register, pixel, key flag and byte, and the model's own fields. -/
inductive Part where
  | reg (r : Reg)
  | index
  | pc
  | stack
  | delayTimer
  | soundTimer
  | pixel (y : Fin 32) (x : Fin 64)
  | keyFlag (k : Key)
  | wait
  | byte (a : Nat)
  | config
  | draws
  | pending
  | policy
  deriving DecidableEq, Repr

/-- The part reads the same in both states. -/
def Part.same (s t : State) : Part → Prop
  | .reg r => t.reg r = s.reg r
  | .index => t.i = s.i
  | .pc => t.pc = s.pc
  | .stack => t.stack = s.stack
  | .delayTimer => t.dt = s.dt
  | .soundTimer => t.st = s.st
  | .pixel y x => t.fb.pixel y x = s.fb.pixel y x
  | .keyFlag k => t.keyFlag k = s.keyFlag k
  | .wait => t.wait = s.wait
  | .byte a => t.readByte a = s.readByte a
  | .config => t.cfg = s.cfg
  | .draws => t.draws = s.draws
  | .pending => t.pending = s.pending
  | .policy => t.policy = s.policy

/-- The frame of an operation: every part outside `may` is unchanged from `s` to `t`. -/
def OnlyChanges (may : Part → Prop) (s t : State) : Prop := ∀ p, ¬ may p → p.same s t

/-- The state invariants of 10_state.md R37, with what makes them inductive: a return address is the address after a call that
was fetched (41_control_flow.md R121), and a waiting machine's `pc` is the address of an FX0A that was fetched (R25). -/
structure State.Inv (s : State) : Prop where
  /-- The memory is in canonical form and has no byte outside 0x000 to 0xFFF. -/
  memory : Memory.wf s.cfg.font s.mem
  /-- Depth stays in 0 to 16 (R27). -/
  depth : s.stack.length ≤ 16
  /-- A return address is 2 to 0x1000 (R121). -/
  returns : ∀ w ∈ s.stack, 2 ≤ w.toNat ∧ w.toNat ≤ 0x1000
  /-- `pc` is at most 0x10FE (R26, R37). -/
  counter : s.pc.toNat ≤ 0x10FE
  /-- While `WAIT` is not `Run`, `pc` is an address a fetch succeeded at (R25). -/
  waiting : s.wait ≠ .run → s.pc.toNat ≤ 0xFFE

/-- A safe run of `k` steps: none of them ends in a fault or a refusal (93_implementation_defined.md U6, U9). -/
def SafeRun (k : Nat) (s : State) : Prop := ∃ t, Host.Core.run core k s = .next t

/-- The 16-bit word `n` spells the instruction `i` and nothing else does (30_encoding.md R85, R86). -/
def SpelledBy (i : Instr) (n : Nat) : Prop := ∀ w : Word, decodeWord w = .ok i ↔ w.toNat = n

/-- Framebuffer pixel (row `py`, column `px`) lies under column `c` of row `r` of a sprite of `n` rows drawn at (`x0`, `y0`):
the wrapped coordinates are that pixel's, and with clipping the unwrapped ones are on the screen (44_display.md R182). -/
def Covers (clip : Bool) (x0 y0 n : Nat) (py : Fin 32) (px : Fin 64) (r c : Nat) : Prop :=
  r < n ∧ c < 8 ∧ py.val = (y0 + r) % 32 ∧ px.val = (x0 + c) % 64 ∧ (clip = true → x0 + c ≤ 63 ∧ y0 + r ≤ 31)

/-- A sprite of `n` rows at Vx, Vy whose bytes start at `I` has a 1 bit on the pixel (R182). -/
def SpriteSets (s : State) (x y : Reg) (n : Nat) (py : Fin 32) (px : Fin 64) : Prop :=
  ∃ r c, Covers s.cfg.clip ((s.reg x).toNat % 64) ((s.reg y).toNat % 32) n py px r c ∧
    (s.readByte (effAddr s r)).getLsbD (7 - c) = true

end Sys2Proof.Machine
end

