-- ==== Sys2Proof/Certificates/Slice0/Obligations.lean ====
section
/-! DEFINITION. The statements for the provers. In a statement about `exec`, `s` is the state an instruction rule sees, its `pc`
already advanced past the instruction (40_operations.md R105); `OnlyChanges` is its frame: every register, pixel, key flag, byte
and other part not named is unchanged. -/

open Sys2Proof Sys2Proof.Machine

/-! ### Encoding and decoding -/

/-- Decoding the two bytes of an encoded well-formed instruction gives it back with every operand, and leaves the bytes after it
(30_encoding.md R80 to R86). -/
def Obligations.DecodeInvertsEncode : Prop :=
  ∀ (i : Instr) (rest : List Byte), i.WellFormed → decode (bytesOfWord (encode i) ++ rest) = .ok (i, rest)

/-- A word that decodes is the encoding of what it decodes to: no bit of a valid word is ignored (R88). -/
def Obligations.EncodeInvertsDecode : Prop :=
  ∀ (w : Word) (i : Instr), decodeWord w = .ok i → i.WellFormed ∧ encode i = w

/-- The nibble algorithm of R85 agrees with the match and mask columns of R86: a word that decodes matches the row of its
instruction and no other row; a word that does not is rejected by name and matches no row. -/
def Obligations.DecoderAgreesWithOpcodeList : Prop :=
  (∀ (w : Word) (i : Instr), decodeWord w = .ok i →
    i.row ∈ opcodeTable ∧ i.row.accepts w = true ∧ ∀ r ∈ opcodeTable, r.accepts w = true → r = i.row) ∧
  (∀ (w : Word) (e : DecodeError), decodeWord w = .error e →
    e = .invalidOpcode w ∧ ∀ r ∈ opcodeTable, r.accepts w = false)

/-- Words written out from the patterns of R86 decode to the instructions they stand for. -/
def Obligations.SampleWordsDecode : Prop :=
  decodeWord 0x00E0 = .ok .cls ∧ decodeWord 0x00EE = .ok .ret ∧ decodeWord 0x2ABC = .ok (.call 0xABC) ∧
  decodeWord 0x332A = .ok (.seImm 3 0x2A) ∧ decodeWord 0x8AB7 = .ok (.subn 10 11) ∧ decodeWord 0xA2F0 = .ok (.ldI 0x2F0) ∧
  decodeWord 0xD125 = .ok (.drw 1 2 5) ∧ decodeWord 0xE29E = .ok (.skp 2) ∧ decodeWord 0xFF65 = .ok (.loadRegs 15) ∧
  decodeWord 0x0000 = .error (.invalidOpcode 0x0000)

/-! ### The cycle -/

/-- The instruction word is the byte at `pc` times 256 plus the byte at `pc + 1` (R81). -/
def Obligations.InstructionWordIsBigEndian : Prop :=
  ∀ s : State, s.fetchWord.toNat = (s.readByte s.pc.toNat).toNat * 256 + (s.readByte (s.pc.toNat + 1)).toNat

/-- When the machine does not wait and the bytes at `pc` decode to `i`, the step is `exec i` on the state whose `pc` is advanced
by 2 and from whose host list the `cycle` is gone (R103 to R106); an error ends the run or leaves the advanced state, as the
host's policy says (R208, R209; log 7). -/
def Obligations.StepRunsDecodedInstruction : Prop :=
  ∀ (s : State) (i : Instr), s.nextOp = .cycle → s.wait = .run → s.pc.toNat ≤ 0xFFE →
    decode [s.readByte s.pc.toNat, s.readByte (s.pc.toNat + 1)] = .ok (i, []) →
    (∀ t, exec i s.popOp.advance = .next t → step s = .next t) ∧
    (∀ f, exec i s.popOp.advance = .fault f → s.policy = .halt → step s = .fault f) ∧
    (∀ f, exec i s.popOp.advance = .fault f → s.policy = .goOn → step s = .next s.popOp.advance) ∧
    s.popOp.advance.pc.toNat = s.pc.toNat + 2 ∧
    OnlyChanges (fun p => p = .pc ∨ p = .pending) s s.popOp.advance

/-- A fetch at `pc` above 0xFFE reports the error and changes nothing, `pc` included (R104). That `pc` stays is the spec's decision
D10 (log 12) and the value carried its decision D16 (log 13); halting or going on is the host's policy (log 7). -/
def Obligations.FetchAboveTopFails : Prop :=
  ∀ s : State, s.nextOp = .cycle → s.wait = .run → 0xFFE < s.pc.toNat →
    (s.policy = .halt → step s = .fault (.outOfBounds s.pc.toNat)) ∧
    (s.policy = .goOn → step s = .next s.popOp)

/-- A fetched word that no row of the opcode list matches, the zero word among them, is reported; only the pre-advance of `pc`
remains (R89, R204, R208, R209, R241). The word carried is the spec's decision D16 (log 13); halting or going on is the host's
policy (log 7). -/
def Obligations.InvalidWordIsReported : Prop :=
  (∀ s : State, s.nextOp = .cycle → s.wait = .run → s.pc.toNat ≤ 0xFFE →
    (∀ r ∈ opcodeTable, r.accepts s.fetchWord = false) →
    (s.policy = .halt → step s = .fault (.invalidOpcode s.fetchWord)) ∧
    (s.policy = .goOn → ∃ t, step s = .next t ∧ t.pc.toNat = s.pc.toNat + 2 ∧
      OnlyChanges (fun p => p = .pc ∨ p = .pending) s t)) ∧
  (∀ r ∈ opcodeTable, r.accepts 0x0000#16 = false)

/-- An error of any operation leaves the state as it was, but for the pre-advance of a cycle that fetched (R208, R209). That a
failing fetch leaves `pc` is the spec's decision D10 (log 12); that an error halts the run or not is the host's policy (log 7). -/
def Obligations.ErrorsArePrecise : Prop :=
  ∀ (s : State) (f : Fault), perform s.nextOp s.popOp = .fault f →
    (s.policy = .halt → step s = .fault f) ∧
    (s.policy = .goOn → ∃ t, step s = .next t ∧
      t.pc = (if s.nextOp = .cycle ∧ s.pc.toNat ≤ 0xFFE then s.pc + 2 else s.pc) ∧
      t.pending = s.pending.tail ∧ OnlyChanges (fun p => p = .pc ∨ p = .pending) s t)

/-- The error conditions of the instructions are these and no others, and each instruction has at most one (R54, R205 to R207). The
unreduced bounds are the spec's decision D11 (log 12), the key index case its decision D13 (log 11), the payloads its decision D16
(log 13); that a stack of more than 16 entries, which no run reaches, overflows too is the model's choice (log 30). -/
def Obligations.ErrorConditionsOfInstructions : Prop :=
  ∀ (i : Instr) (s : State) (f : Fault), exec i s = .fault f ↔
    ((∃ nnn, i = .call nnn) ∧ 16 ≤ s.stack.length ∧ f = .stackOverflow) ∨
    (i = .ret ∧ s.stack = [] ∧ f = .stackUnderflow) ∨
    (∃ x, (i = .skp x ∨ i = .sknp x) ∧ 15 < (s.reg x).toNat ∧ f = .outOfBounds (s.reg x).toNat) ∨
    (∃ x, i = .ldB x ∧ 0xFFF < s.i.toNat + 2 ∧ f = .outOfBounds (s.i.toNat + 2)) ∨
    (∃ x, (i = .storeRegs x ∨ i = .loadRegs x) ∧ 0xFFF < s.i.toNat + x.val ∧ f = .outOfBounds (s.i.toNat + x.val)) ∨
    (∃ x y n, i = .drw x y (n + 1) ∧ 0xFFF < s.i.toNat + n ∧ f = .outOfBounds (s.i.toNat + n))

/-- No step is ever refused: every word the decoder accepts has its meaning. -/
def Obligations.NoStepIsRefused : Prop := ∀ (s : State) (q : Refusal), step s ≠ .refused q

/-- Under a host that goes on after errors, every operation on every state answers a next state (R100, R200, R209; log 7). -/
def Obligations.ContinuingHostNeverStops : Prop :=
  ∀ s : State, s.policy = .goOn → ∃ t, step s = .next t

/-! ### Control flow -/

/-- 1NNN (R122). -/
def Obligations.JumpSetsCounter : Prop :=
  ∀ (nnn : BitVec 12) (s : State), SpelledBy (.jp nnn) (0x1000 + nnn.toNat) ∧
    ∃ t, exec (.jp nnn) s = .next t ∧ t.pc.toNat = nnn.toNat ∧ OnlyChanges (fun p => p = .pc) s t

/-- A jump to its own address leaves the state as it was (R122, R238). -/
def Obligations.SelfJumpRepeatsState : Prop :=
  ∀ (s : State) (nnn : BitVec 12), s.pending = [] → s.wait = .run → s.pc.toNat ≤ 0xFFE →
    decode [s.readByte s.pc.toNat, s.readByte (s.pc.toNat + 1)] = .ok (.jp nnn, []) → nnn.toNat = s.pc.toNat →
    step s = .next s

/-- 2NNN pushes the address after the call (R123); with 16 entries on the stack it reports the overflow (R202). -/
def Obligations.CallPushesReturnAddress : Prop :=
  ∀ (nnn : BitVec 12) (s : State), SpelledBy (.call nnn) (0x2000 + nnn.toNat) ∧
    (s.stack.length < 16 → ∃ t, exec (.call nnn) s = .next t ∧ t.stack = s.pc :: s.stack ∧ t.pc.toNat = nnn.toNat ∧
      OnlyChanges (fun p => p = .pc ∨ p = .stack) s t) ∧
    (s.stack.length = 16 → exec (.call nnn) s = .fault .stackOverflow)

/-- 00EE continues at the address pushed last (R121); with an empty stack it reports the underflow (R203). -/
def Obligations.ReturnPopsAddress : Prop :=
  ∀ s : State, SpelledBy .ret 0x00EE ∧
    (∀ w rest, s.stack = w :: rest → ∃ t, exec .ret s = .next t ∧ t.pc = w ∧ t.stack = rest ∧
      OnlyChanges (fun p => p = .pc ∨ p = .stack) s t) ∧
    (s.stack = [] → exec .ret s = .fault .stackUnderflow)

/-- A call to its own address pushes its return address sixteen times; the seventeenth step reports the overflow with the depth
still 16 (R123, R202). -/
def Obligations.SelfCallOverflowsOnSeventeenth : Prop :=
  ∀ (s : State) (nnn : BitVec 12), s.pending = [] → s.policy = .halt → s.wait = .run → s.stack = [] → s.pc.toNat ≤ 0xFFE →
    decode [s.readByte s.pc.toNat, s.readByte (s.pc.toNat + 1)] = .ok (.call nnn, []) → nnn.toNat = s.pc.toNat →
    ∃ t, Host.Core.run Sys2Proof.core 16 s = .next t ∧ t.stack = List.replicate 16 (s.pc + 2) ∧ t.pc = s.pc ∧
      OnlyChanges (fun p => p = .stack) s t ∧ step t = .fault .stackOverflow

/-- 3XNN and 4XNN (R124, R125). -/
def Obligations.SkipsOnImmediate : Prop :=
  ∀ (x : Reg) (nn : Byte) (s : State),
    SpelledBy (.seImm x nn) (0x3000 + 0x100 * x.val + nn.toNat) ∧ SpelledBy (.sneImm x nn) (0x4000 + 0x100 * x.val + nn.toNat) ∧
    (∃ t, exec (.seImm x nn) s = .next t ∧ t.pc = (if s.reg x = nn then s.pc + 2 else s.pc) ∧
      OnlyChanges (fun p => p = .pc) s t) ∧
    (∃ t, exec (.sneImm x nn) s = .next t ∧ t.pc = (if s.reg x = nn then s.pc else s.pc + 2) ∧
      OnlyChanges (fun p => p = .pc) s t)

/-- 5XY0 and 9XY0 (R126, R127). -/
def Obligations.SkipsOnRegisters : Prop :=
  ∀ (x y : Reg) (s : State),
    SpelledBy (.seReg x y) (0x5000 + 0x100 * x.val + 0x10 * y.val) ∧ SpelledBy (.sneReg x y) (0x9000 + 0x100 * x.val + 0x10 * y.val) ∧
    (∃ t, exec (.seReg x y) s = .next t ∧ t.pc = (if s.reg x = s.reg y then s.pc + 2 else s.pc) ∧
      OnlyChanges (fun p => p = .pc) s t) ∧
    (∃ t, exec (.sneReg x y) s = .next t ∧ t.pc = (if s.reg x = s.reg y then s.pc else s.pc + 2) ∧
      OnlyChanges (fun p => p = .pc) s t)

/-- BNNN: the target is nnn plus V0, or plus the register numbered by nnn's top nibble when `Q_JUMP_VX`, never reduced (R128; the
spec's decisions D6 and D24, log 14). -/
def Obligations.JumpWithOffset : Prop :=
  ∀ (nnn : BitVec 12) (s : State), SpelledBy (.jpV0 nnn) (0xB000 + nnn.toNat) ∧
    ∃ t, exec (.jpV0 nnn) s = .next t ∧
      (s.cfg.jumpVx = false → t.pc.toNat = nnn.toNat + (s.reg 0).toNat) ∧
      (s.cfg.jumpVx = true → ∀ x : Reg, x.val = nnn.toNat / 0x100 → t.pc.toNat = nnn.toNat + (s.reg x).toNat) ∧
      OnlyChanges (fun p => p = .pc) s t

/-! ### Register load, arithmetic, logic, shift, random -/

/-- 6XNN and 7XNN; the addition wraps and writes no flag (R141, R142). -/
def Obligations.ImmediateLoadAndAdd : Prop :=
  ∀ (x : Reg) (nn : Byte) (s : State),
    SpelledBy (.ldImm x nn) (0x6000 + 0x100 * x.val + nn.toNat) ∧ SpelledBy (.addImm x nn) (0x7000 + 0x100 * x.val + nn.toNat) ∧
    (∃ t, exec (.ldImm x nn) s = .next t ∧ t.reg x = nn ∧ OnlyChanges (fun p => p = .reg x) s t) ∧
    (∃ t, exec (.addImm x nn) s = .next t ∧ (t.reg x).toNat = ((s.reg x).toNat + nn.toNat) % 256 ∧
      OnlyChanges (fun p => p = .reg x) s t)

/-- 8XY0 copies a register; 8XY1, 8XY2 and 8XY3 combine two registers bit by bit and leave VF alone (R143 to R146). The minor
opcodes, and 8XY0 as a whole, are the spec's own, from general knowledge (R87, log 4). -/
def Obligations.CopyAndBitwise : Prop :=
  ∀ (x y : Reg) (s : State),
    SpelledBy (.ldReg x y) (0x8000 + 0x100 * x.val + 0x10 * y.val) ∧ SpelledBy (.orReg x y) (0x8001 + 0x100 * x.val + 0x10 * y.val) ∧
    SpelledBy (.andReg x y) (0x8002 + 0x100 * x.val + 0x10 * y.val) ∧ SpelledBy (.xorReg x y) (0x8003 + 0x100 * x.val + 0x10 * y.val) ∧
    (∃ t, exec (.ldReg x y) s = .next t ∧ t.reg x = s.reg y ∧ OnlyChanges (fun p => p = .reg x) s t) ∧
    (∃ t, exec (.orReg x y) s = .next t ∧
      (∀ k, (t.reg x).getLsbD k = ((s.reg x).getLsbD k || (s.reg y).getLsbD k)) ∧ OnlyChanges (fun p => p = .reg x) s t) ∧
    (∃ t, exec (.andReg x y) s = .next t ∧
      (∀ k, (t.reg x).getLsbD k = ((s.reg x).getLsbD k && (s.reg y).getLsbD k)) ∧ OnlyChanges (fun p => p = .reg x) s t) ∧
    (∃ t, exec (.xorReg x y) s = .next t ∧
      (∀ k, (t.reg x).getLsbD k = ((s.reg x).getLsbD k ^^ (s.reg y).getLsbD k)) ∧ OnlyChanges (fun p => p = .reg x) s t)

/-- 8XY4: the sum modulo 256, and VF the carry, also when x = 15 (R147, R153). The minor opcode is the spec's own (log 4), and that
VF is written last its decision D8 (log 9). -/
def Obligations.AddSetsCarry : Prop :=
  ∀ (x y : Reg) (s : State), SpelledBy (.addReg x y) (0x8004 + 0x100 * x.val + 0x10 * y.val) ∧
    ∃ t, exec (.addReg x y) s = .next t ∧
      (x ≠ 15 → (t.reg x).toNat = ((s.reg x).toNat + (s.reg y).toNat) % 256) ∧
      (t.reg 15).toNat = (if (s.reg x).toNat + (s.reg y).toNat > 255 then 1 else 0) ∧
      OnlyChanges (fun p => p = .reg x ∨ p = .reg 15) s t

/-- 8XY5 and 8XY7: the difference modulo 256, and VF the NOT-borrow, also when x = 15 (R148, R150, R153). Which operand is the
minuend, and the minor opcodes, are the spec's own (log 4); that VF is written last is its decision D8 (log 9). -/
def Obligations.SubtractSetsNotBorrow : Prop :=
  ∀ (x y : Reg) (s : State),
    SpelledBy (.sub x y) (0x8005 + 0x100 * x.val + 0x10 * y.val) ∧ SpelledBy (.subn x y) (0x8007 + 0x100 * x.val + 0x10 * y.val) ∧
    (∃ t, exec (.sub x y) s = .next t ∧
      (x ≠ 15 → ((t.reg x).toNat : Int) = ((s.reg x).toNat - (s.reg y).toNat : Int) % 256) ∧
      (t.reg 15).toNat = (if (s.reg x).toNat ≥ (s.reg y).toNat then 1 else 0) ∧
      OnlyChanges (fun p => p = .reg x ∨ p = .reg 15) s t) ∧
    (∃ t, exec (.subn x y) s = .next t ∧
      (x ≠ 15 → ((t.reg x).toNat : Int) = ((s.reg y).toNat - (s.reg x).toNat : Int) % 256) ∧
      (t.reg 15).toNat = (if (s.reg y).toNat ≥ (s.reg x).toNat then 1 else 0) ∧
      OnlyChanges (fun p => p = .reg x ∨ p = .reg 15) s t)

/-- 8XY6 and 8XYE: a shift by one of Vx, or of Vy when `Q_SHIFT_VY`, and VF the bit shifted out (R149, R151, R153). The minor
opcodes are the spec's own (log 4); that VF is written last is its decision D8 (log 9). -/
def Obligations.ShiftsByOneBit : Prop :=
  ∀ (x y : Reg) (s : State) (v : Byte), v = (if s.cfg.shiftVy then s.reg y else s.reg x) →
    SpelledBy (.shr x y) (0x8006 + 0x100 * x.val + 0x10 * y.val) ∧ SpelledBy (.shl x y) (0x800E + 0x100 * x.val + 0x10 * y.val) ∧
    (∃ t, exec (.shr x y) s = .next t ∧ (x ≠ 15 → (t.reg x).toNat = v.toNat / 2) ∧ (t.reg 15).toNat = v.toNat % 2 ∧
      OnlyChanges (fun p => p = .reg x ∨ p = .reg 15) s t) ∧
    (∃ t, exec (.shl x y) s = .next t ∧ (x ≠ 15 → (t.reg x).toNat = v.toNat * 2 % 256) ∧ (t.reg 15).toNat = v.toNat / 128 ∧
      OnlyChanges (fun p => p = .reg x ∨ p = .reg 15) s t)

/-- CXNN: the byte drawn, whatever it is, under the mask; it draws one byte (R152; the byte is a free value, log 3). -/
def Obligations.RandomUnderMask : Prop :=
  ∀ (x : Reg) (nn : Byte) (s : State), SpelledBy (.rnd x nn) (0xC000 + 0x100 * x.val + nn.toNat) ∧
    ∃ t, exec (.rnd x nn) s = .next t ∧ t.reg x = Config.draw8 s.draws &&& nn ∧ (t.reg x).toNat ≤ nn.toNat ∧
      t.draws = s.draws + 1 ∧ OnlyChanges (fun p => p = .reg x ∨ p = .draws) s t

/-- VF changes only by the instructions that use it as a flag, or by one that names register 15 as its destination (R22). -/
def Obligations.OnlyFlagInstructionsWriteVF : Prop :=
  ∀ (i : Instr) (s t : State), exec i s = .next t → t.reg 15 ≠ s.reg 15 →
    (∃ x y, i = .addReg x y ∨ i = .sub x y ∨ i = .subn x y ∨ i = .shr x y ∨ i = .shl x y) ∨
    (∃ x y n, i = .drw x y n) ∨
    (∃ x, i = .addI x ∧ s.cfg.fx1eVf = true) ∨
    (∃ nn, i = .ldImm 15 nn ∨ i = .addImm 15 nn ∨ i = .rnd 15 nn) ∨
    (∃ y, i = .ldReg 15 y ∨ i = .orReg 15 y ∨ i = .andReg 15 y ∨ i = .xorReg 15 y) ∨
    i = .ldVxDt 15 ∨ i = .loadRegs 15

/-! ### Index register and memory -/

/-- ANNN (R160). -/
def Obligations.LoadIndex : Prop :=
  ∀ (nnn : BitVec 12) (s : State), SpelledBy (.ldI nnn) (0xA000 + nnn.toNat) ∧
    ∃ t, exec (.ldI nnn) s = .next t ∧ t.i.toNat = nnn.toNat ∧ OnlyChanges (fun p => p = .index) s t

/-- FX1E: the sum wraps at 16 bits; VF is written only when `Q_FX1E_VF`, and then both ways (R161; that it is cleared too is the
spec's decision D5, log 15). -/
def Obligations.AddToIndex : Prop :=
  ∀ (x : Reg) (s : State), SpelledBy (.addI x) (0xF01E + 0x100 * x.val) ∧
    ∃ t, exec (.addI x) s = .next t ∧ t.i.toNat = (s.i.toNat + (s.reg x).toNat) % 0x10000 ∧
      (s.cfg.fx1eVf = false → OnlyChanges (fun p => p = .index) s t) ∧
      (s.cfg.fx1eVf = true → (t.reg 15).toNat = (if s.i.toNat + (s.reg x).toNat > 0xFFF then 1 else 0) ∧
        OnlyChanges (fun p => p = .index ∨ p = .reg 15) s t)

/-- FX29 (R162). -/
def Obligations.FontGlyphAddress : Prop :=
  ∀ (x : Reg) (s : State), SpelledBy (.ldF x) (0xF029 + 0x100 * x.val) ∧
    ∃ t, exec (.ldF x) s = .next t ∧ t.i.toNat = 0x050 + 5 * ((s.reg x).toNat % 16) ∧ OnlyChanges (fun p => p = .index) s t

/-- FX33 stores hundreds, tens and units at I, I + 1 and I + 2 (R163); out of bounds it reports and stores nothing (R54; the bound
and the payload are the spec's decisions D11 and D16, logs 12 and 13). -/
def Obligations.StoreDecimalDigits : Prop :=
  ∀ (x : Reg) (s : State), SpelledBy (.ldB x) (0xF033 + 0x100 * x.val) ∧
    (s.i.toNat + 2 ≤ 0xFFF → ∃ t, exec (.ldB x) s = .next t ∧
      (t.readByte (effAddr s 0)).toNat = (s.reg x).toNat / 100 ∧
      (t.readByte (effAddr s 1)).toNat = (s.reg x).toNat / 10 % 10 ∧
      (t.readByte (effAddr s 2)).toNat = (s.reg x).toNat % 10 ∧
      OnlyChanges (fun p => ∃ a, p = .byte a ∧ effAddr s 0 ≤ a ∧ a < effAddr s 0 + 3) s t) ∧
    (0xFFF < s.i.toNat + 2 → exec (.ldB x) s = .fault (.outOfBounds (s.i.toNat + 2)))

/-- FX55 stores V0 to Vx at I to I + x, V0 lowest; I moves by x + 1 only when `Q_LDST_INC` (R164; that amount is the spec's decision
D4, log 2; the bound and the payload its decisions D11 and D16, logs 12 and 13). -/
def Obligations.StoreRegisters : Prop :=
  ∀ (x : Reg) (s : State), SpelledBy (.storeRegs x) (0xF055 + 0x100 * x.val) ∧
    (s.i.toNat + x.val ≤ 0xFFF → ∃ t, exec (.storeRegs x) s = .next t ∧
      (∀ r : Reg, r.val ≤ x.val → t.readByte (effAddr s r.val) = s.reg r) ∧
      t.i.toNat = (if s.cfg.ldstInc then (s.i.toNat + x.val + 1) % 0x10000 else s.i.toNat) ∧
      OnlyChanges (fun p => p = .index ∨ ∃ a, p = .byte a ∧ effAddr s 0 ≤ a ∧ a < effAddr s 0 + (x.val + 1)) s t) ∧
    (0xFFF < s.i.toNat + x.val → exec (.storeRegs x) s = .fault (.outOfBounds (s.i.toNat + x.val)))

/-- FX65 loads V0 to Vx from I to I + x; I moves by x + 1 only when `Q_LDST_INC` (R165; that amount is the spec's decision D4,
log 2; the bound and the payload its decisions D11 and D16, logs 12 and 13). -/
def Obligations.LoadRegisters : Prop :=
  ∀ (x : Reg) (s : State), SpelledBy (.loadRegs x) (0xF065 + 0x100 * x.val) ∧
    (s.i.toNat + x.val ≤ 0xFFF → ∃ t, exec (.loadRegs x) s = .next t ∧
      (∀ r : Reg, r.val ≤ x.val → t.reg r = s.readByte (effAddr s r.val)) ∧
      t.i.toNat = (if s.cfg.ldstInc then (s.i.toNat + x.val + 1) % 0x10000 else s.i.toNat) ∧
      OnlyChanges (fun p => p = .index ∨ ∃ r, p = .reg r ∧ r.val ≤ x.val) s t) ∧
    (0xFFF < s.i.toNat + x.val → exec (.loadRegs x) s = .fault (.outOfBounds (s.i.toNat + x.val)))

/-- What FX55 stored, FX65 loads back: with I put back to the same base, in any registers and whatever else has changed but the
bytes stored, V0 to Vx return (R164, R165). -/
def Obligations.LoadRestoresStoredRegisters : Prop :=
  ∀ (x : Reg) (s t u : State), exec (.storeRegs x) s = .next t → u.i = s.i → (∀ a, u.readByte a = t.readByte a) →
    ∃ w, exec (.loadRegs x) u = .next w ∧ ∀ r : Reg, w.reg r = if r.val ≤ x.val then s.reg r else u.reg r

/-- A store over the next instruction is what the next fetch reads: FX55 with I at the address after it (R65; the spec's derived
rule, its decision D29). -/
def Obligations.StoreIsSeenByNextFetch : Prop :=
  ∀ (x : Reg) (s : State), 1 ≤ x.val → s.i = s.pc → s.i.toNat + x.val ≤ 0xFFF →
    ∃ t, exec (.storeRegs x) s = .next t ∧ t.pc = s.pc ∧ t.fetchWord.toNat = (s.reg 0).toNat * 256 + (s.reg 1).toNat

/-- In a cycle, a byte of memory changes only by FX33 or FX55, inside the range it stores to (R23, R57, R60). -/
def Obligations.OnlyStoresChangeMemory : Prop :=
  ∀ (s t : State) (a : Nat), perform .cycle s = .next t → t.readByte a ≠ s.readByte a →
    s.wait = .run ∧ ∃ x, (decodeWord s.fetchWord = .ok (.ldB x) ∧ effAddr s 0 ≤ a ∧ a ≤ effAddr s 2) ∨
      (decodeWord s.fetchWord = .ok (.storeRegs x) ∧ effAddr s 0 ≤ a ∧ a ≤ effAddr s x.val)

/-- Two memories in canonical form that read alike at every address are the same list of cells. -/
def Obligations.CanonicalMemoryIsUnique : Prop :=
  ∀ (font : Vector Byte 80) (m m' : List Host.Cell), Memory.wf font m → Memory.wf font m' →
    (∀ a, Memory.read font m a = Memory.read font m' a) → m = m'

/-! ### Display -/

/-- 00E0 (R181). -/
def Obligations.ClearUnsetsEveryPixel : Prop :=
  ∀ s : State, SpelledBy .cls 0x00E0 ∧
    ∃ t, exec .cls s = .next t ∧ (∀ y x, t.fb.pixel y x = false) ∧ snapshot t = List.replicate 2048 false ∧
      OnlyChanges (fun p => ∃ y x, p = .pixel y x) s t

/-- DXYN: every pixel under a 1 bit of the sprite is inverted, every other kept, and VF says whether one of those was set; n = 0
draws nothing; out of bounds it reports (R182, R183). Bit order, clipping, n = 0, the bound and the payload rest on the spec's
decisions D18, D7, D21, D11 and D16 (logs 10, 2, 16, 12, 13). -/
def Obligations.DrawXorsSprite : Prop :=
  ∀ (x y : Reg) (n : Nat) (s : State), n < 16 →
    SpelledBy (.drw x y n) (0xD000 + 0x100 * x.val + 0x10 * y.val + n) ∧
    (n = 0 ∨ s.i.toNat + (n - 1) ≤ 0xFFF →
      ∃ t, exec (.drw x y n) s = .next t ∧
        (∀ py px, SpriteSets s x y n py px → t.fb.pixel py px = !s.fb.pixel py px) ∧
        (∀ py px, ¬ SpriteSets s x y n py px → t.fb.pixel py px = s.fb.pixel py px) ∧
        ((∃ py px, SpriteSets s x y n py px ∧ s.fb.pixel py px = true) → t.reg 15 = 1) ∧
        ((¬ ∃ py px, SpriteSets s x y n py px ∧ s.fb.pixel py px = true) → t.reg 15 = 0) ∧
        OnlyChanges (fun p => p = .reg 15 ∨ ∃ py px, p = .pixel py px) s t) ∧
    (n ≠ 0 → 0xFFF < s.i.toNat + (n - 1) → exec (.drw x y n) s = .fault (.outOfBounds (s.i.toNat + (n - 1))))

/-- Drawing a sprite twice at the same place restores the framebuffer; the coordinates are not read from VF (R182). -/
def Obligations.DrawTwiceRestores : Prop :=
  ∀ (x y : Reg) (n : Nat) (s t : State), n < 16 → x ≠ 15 → y ≠ 15 → exec (.drw x y n) s = .next t →
    ∃ u, exec (.drw x y n) t = .next u ∧ u.fb = s.fb

/-- `framebuffer_snapshot` returns the 2048 pixels row-major and changes no state (R111). -/
def Obligations.SnapshotIsRowMajor : Prop :=
  ∀ s : State, (snapshot s).length = 2048 ∧
    (∀ (y : Fin 32) (x : Fin 64), (snapshot s)[y.val * 64 + x.val]? = some (s.fb.pixel y x)) ∧
    perform .framebufferSnapshot s = .next s

/-! ### Keypad and timers -/

/-- EX9E and EXA1 test the level of the key Vx names; a value above 15 is reported (R190, R191; the report and its payload are the
spec's decisions D13 and D16, logs 11 and 13). -/
def Obligations.SkipsOnKey : Prop :=
  ∀ (x : Reg) (s : State),
    SpelledBy (.skp x) (0xE09E + 0x100 * x.val) ∧ SpelledBy (.sknp x) (0xE0A1 + 0x100 * x.val) ∧
    (∀ k : Key, k.val = (s.reg x).toNat →
      (∃ t, exec (.skp x) s = .next t ∧ t.pc = (if s.keyFlag k then s.pc + 2 else s.pc) ∧ OnlyChanges (fun p => p = .pc) s t) ∧
      (∃ t, exec (.sknp x) s = .next t ∧ t.pc = (if s.keyFlag k then s.pc else s.pc + 2) ∧ OnlyChanges (fun p => p = .pc) s t)) ∧
    (15 < (s.reg x).toNat → exec (.skp x) s = .fault (.outOfBounds (s.reg x).toNat) ∧
      exec (.sknp x) s = .fault (.outOfBounds (s.reg x).toNat))

/-- FX07, FX15 and FX18; after FX18 the tone sounds exactly when the value is not 0 (R192 to R194). -/
def Obligations.TimerMoves : Prop :=
  ∀ (x : Reg) (s : State),
    SpelledBy (.ldVxDt x) (0xF007 + 0x100 * x.val) ∧ SpelledBy (.ldDtVx x) (0xF015 + 0x100 * x.val) ∧
    SpelledBy (.ldStVx x) (0xF018 + 0x100 * x.val) ∧
    (∃ t, exec (.ldVxDt x) s = .next t ∧ t.reg x = s.dt ∧ OnlyChanges (fun p => p = .reg x) s t) ∧
    (∃ t, exec (.ldDtVx x) s = .next t ∧ t.dt = s.reg x ∧ OnlyChanges (fun p => p = .delayTimer) s t) ∧
    (∃ t, exec (.ldStVx x) s = .next t ∧ t.st = s.reg x ∧ (t.tone = true ↔ s.reg x ≠ 0) ∧
      OnlyChanges (fun p => p = .soundTimer) s t)

/-- FX0A puts `pc` back to its own address and waits (R195; the spec's decision D14, log 17). -/
def Obligations.WaitForKeyBegins : Prop :=
  ∀ (x : Reg) (s : State), SpelledBy (.ldVxK x) (0xF00A + 0x100 * x.val) ∧
    ∃ t, exec (.ldVxK x) s = .next t ∧ t.pc = s.pc - 2 ∧ t.wait = .awaitKey x ∧
      OnlyChanges (fun p => p = .pc ∨ p = .wait) s t

/-- A `cycle` while a key is awaited changes nothing (R107). -/
def Obligations.AwaitingCycleDoesNothing : Prop :=
  ∀ (s : State) (x : Reg), s.wait = .awaitKey x → perform .cycle s = .next s

/-- The `cycle` after a press edge writes the key's index, adds 2 to `pc` and ends the wait (R108; that the next cycle does this and
fetches nothing is the spec's decision D14, log 17). -/
def Obligations.CapturedKeyCompletes : Prop :=
  ∀ (s : State) (x : Reg) (k : Key), s.wait = .keyCaptured x k →
    ∃ t, perform .cycle s = .next t ∧ (t.reg x).toNat = k.val ∧ t.pc = s.pc + 2 ∧ t.wait = .run ∧
      OnlyChanges (fun p => p = .reg x ∨ p = .pc ∨ p = .wait) s t

/-- The whole life of an FX0A: it suspends for any number of cycles, the first press edge is captured, and the next cycle stores
the key's index; `pc` has moved by 2 in total (R195; the spec's decision D14, log 17; the host's list is the model's, log 6). -/
def Obligations.KeyWaitLife : Prop :=
  ∀ (s : State) (x : Reg) (k : Key) (n : Nat), s.wait = .run → s.pc.toNat ≤ 0xFFE →
    decode [s.readByte s.pc.toNat, s.readByte (s.pc.toNat + 1)] = .ok (.ldVxK x, []) → s.keyFlag k = false →
    s.pending = List.replicate (n + 1) .cycle ++ [.setKey k.val true, .cycle] →
    ∃ t u v, Host.Core.run Sys2Proof.core (n + 1) s = .next t ∧ t.wait = .awaitKey x ∧ t.pc = s.pc ∧
      step t = .next u ∧ u.wait = .keyCaptured x k ∧ u.keyFlag k = true ∧ u.reg x = s.reg x ∧
      step u = .next v ∧ v.wait = .run ∧ (v.reg x).toNat = k.val ∧ v.pc.toNat = s.pc.toNat + 2 ∧
      OnlyChanges (fun p => p = .reg x ∨ p = .pc ∨ p = .wait ∨ p = .keyFlag k ∨ p = .pending) s v

/-- `set_key` writes the flag, and `WAIT` moves only on a press edge that finds a key awaited: a held key, a release and an edge
after the first do not end or change a wait; an index outside 0 to 15 has no effect (R110, R216; the spec's decisions D14 and
D30, logs 17 and 18). -/
def Obligations.SetKeyWritesFlag : Prop :=
  (∀ (k : Key) (pressed : Bool) (s : State), ∃ t, perform (.setKey k.val pressed) s = .next t ∧ t.keyFlag k = pressed ∧
    (∀ x, s.wait = .awaitKey x → pressed = true → s.keyFlag k = false → t.wait = .keyCaptured x k) ∧
    (pressed = false ∨ s.keyFlag k = true ∨ (∀ x, s.wait ≠ .awaitKey x) → t.wait = s.wait) ∧
    OnlyChanges (fun p => p = .keyFlag k ∨ p = .wait) s t) ∧
  (∀ (k : Int) (pressed : Bool) (s : State), k < 0 ∨ 15 < k → perform (.setKey k pressed) s = .next s)

/-- A wait begins only by a fetched FX0A, and `pc` is then its address (R31, R37; that `pc` is put back and x kept in `WAIT` is the
spec's decision D14, log 17). -/
def Obligations.OnlyFX0AEntersWait : Prop :=
  ∀ s t : State, step s = .next t → s.wait = .run → t.wait ≠ .run →
    ∃ x, t.wait = .awaitKey x ∧ t.pc = s.pc ∧ s.fetchWord.toNat = 0xF00A + 0x100 * x.val

/-- `tick_timers` takes 1 from each timer that is not 0, in every state (R109). That it touches nothing else, cannot fail and works
the same in every value of `WAIT` is R109's own inference ("[derived: from the document's statement that the tick is "independent
of instruction cycle rate" and "only touches the Timer Subsystem"]") and, for a key wait, the spec's decision D28 (log 31). -/
def Obligations.TickDecrementsTimers : Prop :=
  ∀ s : State, ∃ t, perform .tickTimers s = .next t ∧ t.dt.toNat = s.dt.toNat - 1 ∧ t.st.toNat = s.st.toNat - 1 ∧
    OnlyChanges (fun p => p = .delayTimer ∨ p = .soundTimer) s t

/-- After n ticks each timer has lost n, stopping at 0 (R212). That ticks count during a key wait too is the spec's decision D28
(log 31); the host's list is the model's (log 6). -/
def Obligations.TicksCountDownToZero : Prop :=
  ∀ (s : State) (n : Nat), s.pending = List.replicate n .tickTimers →
    ∃ t, Host.Core.run Sys2Proof.core n s = .next t ∧ t.dt.toNat = s.dt.toNat - n ∧ t.st.toNat = s.st.toNat - n ∧
      OnlyChanges (fun p => p = .delayTimer ∨ p = .soundTimer ∨ p = .pending) s t

/-- A cycle changes DT only by FX15 and ST only by FX18 (R28, R237). -/
def Obligations.CyclesDoNotRunTimers : Prop :=
  ∀ s t : State, perform .cycle s = .next t →
    (t.dt ≠ s.dt → ∃ x, decodeWord s.fetchWord = .ok (.ldDtVx x) ∧ t.dt = s.reg x) ∧
    (t.st ≠ s.st → ∃ x, decodeWord s.fetchWord = .ok (.ldStVx x) ∧ t.st = s.reg x)

/-! ### Host operations, reset and the whole machine -/

/-- `load` writes the bytes verbatim from 0x200 on and nothing else, so nothing below 0x200; a ROM of more than 3584 bytes is
reported (R102, R201; loading at any time is the spec's decision D31, the payload its decision D16, logs 19 and 13). -/
def Obligations.LoadWritesRom : Prop :=
  ∀ (bytes : List Byte) (s : State),
    (bytes.length ≤ 3584 → ∃ t, perform (.load bytes) s = .next t ∧
      (∀ (k : Nat) (h : k < bytes.length), t.readByte (0x200 + k) = bytes[k]) ∧
      OnlyChanges (fun p => ∃ a, p = .byte a ∧ 0x200 ≤ a ∧ a < 0x200 + bytes.length) s t) ∧
    (3584 < bytes.length → perform (.load bytes) s = .fault (.romTooLarge bytes.length))

/-- `reset` from every state: `pc` is 0x200, the font lies at 0x050 to 0x09F and every other byte is zero (R36, R101); the zero
registers, timers, pixels and keys, the empty stack and `Run` are the spec's decision D2 (log 8). -/
def Obligations.ResetState : Prop :=
  ∀ s : State, ∃ t, perform .reset s = .next t ∧ t.pc = 0x200 ∧
    (∀ (j : Nat) (h : j < 80), t.readByte (0x050 + j) = s.cfg.font[j]) ∧
    (∀ a, a < 0x050 ∨ 0x0A0 ≤ a → t.readByte a = 0) ∧
    (∀ r, t.reg r = 0) ∧ t.i = 0 ∧ t.stack = [] ∧ t.dt = 0 ∧ t.st = 0 ∧ t.tone = false ∧ (∀ y x, t.fb.pixel y x = false) ∧
    (∀ k, t.keyFlag k = false) ∧ t.wait = .run ∧
    t.cfg = s.cfg ∧ t.draws = s.draws ∧ t.pending = s.pending ∧ t.policy = s.policy ∧
    (s.cfg = Config.default → s.draws = 0 → s.pending = [] → s.policy = .halt → t = State.reset)

/-- After reset and load, the first fetch reads the ROM's first two bytes, the first one high (R231, R232, R58). -/
def Obligations.FirstFetchIsStartOfRom : Prop :=
  ∀ (s : State) (b0 b1 : Byte) (rest : List Byte), rest.length ≤ 3582 →
    ∃ t u, perform .reset s = .next t ∧ perform (.load (b0 :: b1 :: rest)) t = .next u ∧
      u.pc.toNat = 0x200 ∧ u.wait = .run ∧ u.fetchWord.toNat = b0.toNat * 256 + b1.toNat

/-- No step changes the configuration parameters (R34). -/
def Obligations.StepKeepsConfiguration : Prop :=
  ∀ s t : State, step s = .next t → t.cfg = s.cfg

/-- A keypad flag changes only by `set_key` on that key or by `reset` (R32, R210). -/
def Obligations.OnlyHostWritesKeys : Prop :=
  ∀ (s t : State) (k : Key), step s = .next t → t.keyFlag k ≠ s.keyFlag k →
    s.nextOp = .reset ∨ ∃ pressed, s.nextOp = .setKey k.val pressed

/-- The invariants of R37 hold of the state right after reset, whatever the configuration and the host's list. -/
def Obligations.ResetHasInvariant : Prop :=
  ∀ (cfg : Config) (draws : Nat) (pending : List HostOp) (policy : ErrorPolicy),
    (State.resetWith cfg draws pending policy).Inv

/-- Every step keeps the invariants of R37: canonical memory inside 0x000 to 0xFFF, depth 0 to 16, return addresses and `pc` in
their ranges, and a waiting machine's `pc` where a fetch succeeds; after errors too, under a host that goes on. -/
def Obligations.StepKeepsInvariant : Prop :=
  ∀ s t : State, s.Inv → step s = .next t → t.Inv

/-- Every operation has a status of R206, 0 to 5: 0 exactly on success, 1 for a ROM that is too large, 2 for a call on a full stack, 3
for a return on an empty one, 4 for an invalid word, 5 for a fetch or an instruction out of bounds; every other operation succeeds
(R112, R206). The numbers are the spec's decision D16 (log 13), the fetch bound its D10 and D11 (log 12); that a stack of more than
16 entries, which no run reaches, overflows too is the model's choice (log 30). -/
def Obligations.OperationStatus : Prop :=
  ∀ (op : HostOp) (s : State),
    (∃ n, resultStatus (perform op s) = some n ∧ n ≤ 5) ∧
    (resultStatus (perform op s) = some 0 ↔ ∃ t, perform op s = .next t) ∧
    (resultStatus (perform op s) = some 1 ↔ ∃ bytes, op = .load bytes ∧ 3584 < bytes.length) ∧
    (resultStatus (perform op s) = some 2 ↔ op = .cycle ∧ s.wait = .run ∧ s.pc.toNat ≤ 0xFFE ∧
      (∃ nnn, decodeWord s.fetchWord = .ok (.call nnn)) ∧ 16 ≤ s.stack.length) ∧
    (resultStatus (perform op s) = some 3 ↔ op = .cycle ∧ s.wait = .run ∧ s.pc.toNat ≤ 0xFFE ∧
      decodeWord s.fetchWord = .ok .ret ∧ s.stack = []) ∧
    (resultStatus (perform op s) = some 4 ↔ op = .cycle ∧ s.wait = .run ∧ s.pc.toNat ≤ 0xFFE ∧
      ∀ r ∈ opcodeTable, r.accepts s.fetchWord = false) ∧
    (resultStatus (perform op s) = some 5 ↔ op = .cycle ∧ s.wait = .run ∧
      (0xFFE < s.pc.toNat ∨ s.pc.toNat ≤ 0xFFE ∧ ∃ i a, decodeWord s.fetchWord = .ok i ∧
        exec i s.advance = .fault (.outOfBounds a)))
end

