-- ==== Sys2Proof/Laws/State.lean ====
section
/-! SUPPORT. One lemma per field per update, true by `rfl`, and the same for the three readers (`reg`, `keyFlag`, `readByte`):
later proofs never unfold a record update. -/

namespace Sys2Proof.Machine

variable (s : State)

@[simp] theorem State.setReg_i (x : Reg) (b : Byte) : (s.setReg x b).i = s.i := rfl
@[simp] theorem State.setReg_pc (x : Reg) (b : Byte) : (s.setReg x b).pc = s.pc := rfl
@[simp] theorem State.setReg_stack (x : Reg) (b : Byte) : (s.setReg x b).stack = s.stack := rfl
@[simp] theorem State.setReg_dt (x : Reg) (b : Byte) : (s.setReg x b).dt = s.dt := rfl
@[simp] theorem State.setReg_st (x : Reg) (b : Byte) : (s.setReg x b).st = s.st := rfl
@[simp] theorem State.setReg_fb (x : Reg) (b : Byte) : (s.setReg x b).fb = s.fb := rfl
@[simp] theorem State.setReg_key (x : Reg) (b : Byte) : (s.setReg x b).key = s.key := rfl
@[simp] theorem State.setReg_wait (x : Reg) (b : Byte) : (s.setReg x b).wait = s.wait := rfl
@[simp] theorem State.setReg_mem (x : Reg) (b : Byte) : (s.setReg x b).mem = s.mem := rfl
@[simp] theorem State.setReg_cfg (x : Reg) (b : Byte) : (s.setReg x b).cfg = s.cfg := rfl
@[simp] theorem State.setReg_draws (x : Reg) (b : Byte) : (s.setReg x b).draws = s.draws := rfl
@[simp] theorem State.setReg_pending (x : Reg) (b : Byte) : (s.setReg x b).pending = s.pending := rfl
@[simp] theorem State.setReg_policy (x : Reg) (b : Byte) : (s.setReg x b).policy = s.policy := rfl
@[simp] theorem State.setReg_keyFlag (x : Reg) (b : Byte) (j : Key) : (s.setReg x b).keyFlag j = s.keyFlag j := rfl
@[simp] theorem State.setReg_readByte (x : Reg) (b : Byte) (n : Nat) : (s.setReg x b).readByte n = s.readByte n := rfl

@[simp] theorem State.setI_v (w : Word) : (s.setI w).v = s.v := rfl
@[simp] theorem State.setI_i (w : Word) : (s.setI w).i = w := rfl
@[simp] theorem State.setI_pc (w : Word) : (s.setI w).pc = s.pc := rfl
@[simp] theorem State.setI_stack (w : Word) : (s.setI w).stack = s.stack := rfl
@[simp] theorem State.setI_dt (w : Word) : (s.setI w).dt = s.dt := rfl
@[simp] theorem State.setI_st (w : Word) : (s.setI w).st = s.st := rfl
@[simp] theorem State.setI_fb (w : Word) : (s.setI w).fb = s.fb := rfl
@[simp] theorem State.setI_key (w : Word) : (s.setI w).key = s.key := rfl
@[simp] theorem State.setI_wait (w : Word) : (s.setI w).wait = s.wait := rfl
@[simp] theorem State.setI_mem (w : Word) : (s.setI w).mem = s.mem := rfl
@[simp] theorem State.setI_cfg (w : Word) : (s.setI w).cfg = s.cfg := rfl
@[simp] theorem State.setI_draws (w : Word) : (s.setI w).draws = s.draws := rfl
@[simp] theorem State.setI_pending (w : Word) : (s.setI w).pending = s.pending := rfl
@[simp] theorem State.setI_policy (w : Word) : (s.setI w).policy = s.policy := rfl
@[simp] theorem State.setI_reg (w : Word) (r : Reg) : (s.setI w).reg r = s.reg r := rfl
@[simp] theorem State.setI_keyFlag (w : Word) (j : Key) : (s.setI w).keyFlag j = s.keyFlag j := rfl
@[simp] theorem State.setI_readByte (w : Word) (n : Nat) : (s.setI w).readByte n = s.readByte n := rfl

@[simp] theorem State.setPc_v (w : Word) : (s.setPc w).v = s.v := rfl
@[simp] theorem State.setPc_i (w : Word) : (s.setPc w).i = s.i := rfl
@[simp] theorem State.setPc_pc (w : Word) : (s.setPc w).pc = w := rfl
@[simp] theorem State.setPc_stack (w : Word) : (s.setPc w).stack = s.stack := rfl
@[simp] theorem State.setPc_dt (w : Word) : (s.setPc w).dt = s.dt := rfl
@[simp] theorem State.setPc_st (w : Word) : (s.setPc w).st = s.st := rfl
@[simp] theorem State.setPc_fb (w : Word) : (s.setPc w).fb = s.fb := rfl
@[simp] theorem State.setPc_key (w : Word) : (s.setPc w).key = s.key := rfl
@[simp] theorem State.setPc_wait (w : Word) : (s.setPc w).wait = s.wait := rfl
@[simp] theorem State.setPc_mem (w : Word) : (s.setPc w).mem = s.mem := rfl
@[simp] theorem State.setPc_cfg (w : Word) : (s.setPc w).cfg = s.cfg := rfl
@[simp] theorem State.setPc_draws (w : Word) : (s.setPc w).draws = s.draws := rfl
@[simp] theorem State.setPc_pending (w : Word) : (s.setPc w).pending = s.pending := rfl
@[simp] theorem State.setPc_policy (w : Word) : (s.setPc w).policy = s.policy := rfl
@[simp] theorem State.setPc_reg (w : Word) (r : Reg) : (s.setPc w).reg r = s.reg r := rfl
@[simp] theorem State.setPc_keyFlag (w : Word) (j : Key) : (s.setPc w).keyFlag j = s.keyFlag j := rfl
@[simp] theorem State.setPc_readByte (w : Word) (n : Nat) : (s.setPc w).readByte n = s.readByte n := rfl

@[simp] theorem State.setStack_v (l : List Word) : (s.setStack l).v = s.v := rfl
@[simp] theorem State.setStack_i (l : List Word) : (s.setStack l).i = s.i := rfl
@[simp] theorem State.setStack_pc (l : List Word) : (s.setStack l).pc = s.pc := rfl
@[simp] theorem State.setStack_stack (l : List Word) : (s.setStack l).stack = l := rfl
@[simp] theorem State.setStack_dt (l : List Word) : (s.setStack l).dt = s.dt := rfl
@[simp] theorem State.setStack_st (l : List Word) : (s.setStack l).st = s.st := rfl
@[simp] theorem State.setStack_fb (l : List Word) : (s.setStack l).fb = s.fb := rfl
@[simp] theorem State.setStack_key (l : List Word) : (s.setStack l).key = s.key := rfl
@[simp] theorem State.setStack_wait (l : List Word) : (s.setStack l).wait = s.wait := rfl
@[simp] theorem State.setStack_mem (l : List Word) : (s.setStack l).mem = s.mem := rfl
@[simp] theorem State.setStack_cfg (l : List Word) : (s.setStack l).cfg = s.cfg := rfl
@[simp] theorem State.setStack_draws (l : List Word) : (s.setStack l).draws = s.draws := rfl
@[simp] theorem State.setStack_pending (l : List Word) : (s.setStack l).pending = s.pending := rfl
@[simp] theorem State.setStack_policy (l : List Word) : (s.setStack l).policy = s.policy := rfl
@[simp] theorem State.setStack_reg (l : List Word) (r : Reg) : (s.setStack l).reg r = s.reg r := rfl
@[simp] theorem State.setStack_keyFlag (l : List Word) (j : Key) : (s.setStack l).keyFlag j = s.keyFlag j := rfl
@[simp] theorem State.setStack_readByte (l : List Word) (n : Nat) : (s.setStack l).readByte n = s.readByte n := rfl

@[simp] theorem State.setDt_v (b : Byte) : (s.setDt b).v = s.v := rfl
@[simp] theorem State.setDt_i (b : Byte) : (s.setDt b).i = s.i := rfl
@[simp] theorem State.setDt_pc (b : Byte) : (s.setDt b).pc = s.pc := rfl
@[simp] theorem State.setDt_stack (b : Byte) : (s.setDt b).stack = s.stack := rfl
@[simp] theorem State.setDt_dt (b : Byte) : (s.setDt b).dt = b := rfl
@[simp] theorem State.setDt_st (b : Byte) : (s.setDt b).st = s.st := rfl
@[simp] theorem State.setDt_fb (b : Byte) : (s.setDt b).fb = s.fb := rfl
@[simp] theorem State.setDt_key (b : Byte) : (s.setDt b).key = s.key := rfl
@[simp] theorem State.setDt_wait (b : Byte) : (s.setDt b).wait = s.wait := rfl
@[simp] theorem State.setDt_mem (b : Byte) : (s.setDt b).mem = s.mem := rfl
@[simp] theorem State.setDt_cfg (b : Byte) : (s.setDt b).cfg = s.cfg := rfl
@[simp] theorem State.setDt_draws (b : Byte) : (s.setDt b).draws = s.draws := rfl
@[simp] theorem State.setDt_pending (b : Byte) : (s.setDt b).pending = s.pending := rfl
@[simp] theorem State.setDt_policy (b : Byte) : (s.setDt b).policy = s.policy := rfl
@[simp] theorem State.setDt_reg (b : Byte) (r : Reg) : (s.setDt b).reg r = s.reg r := rfl
@[simp] theorem State.setDt_keyFlag (b : Byte) (j : Key) : (s.setDt b).keyFlag j = s.keyFlag j := rfl
@[simp] theorem State.setDt_readByte (b : Byte) (n : Nat) : (s.setDt b).readByte n = s.readByte n := rfl

@[simp] theorem State.setSt_v (b : Byte) : (s.setSt b).v = s.v := rfl
@[simp] theorem State.setSt_i (b : Byte) : (s.setSt b).i = s.i := rfl
@[simp] theorem State.setSt_pc (b : Byte) : (s.setSt b).pc = s.pc := rfl
@[simp] theorem State.setSt_stack (b : Byte) : (s.setSt b).stack = s.stack := rfl
@[simp] theorem State.setSt_dt (b : Byte) : (s.setSt b).dt = s.dt := rfl
@[simp] theorem State.setSt_st (b : Byte) : (s.setSt b).st = b := rfl
@[simp] theorem State.setSt_fb (b : Byte) : (s.setSt b).fb = s.fb := rfl
@[simp] theorem State.setSt_key (b : Byte) : (s.setSt b).key = s.key := rfl
@[simp] theorem State.setSt_wait (b : Byte) : (s.setSt b).wait = s.wait := rfl
@[simp] theorem State.setSt_mem (b : Byte) : (s.setSt b).mem = s.mem := rfl
@[simp] theorem State.setSt_cfg (b : Byte) : (s.setSt b).cfg = s.cfg := rfl
@[simp] theorem State.setSt_draws (b : Byte) : (s.setSt b).draws = s.draws := rfl
@[simp] theorem State.setSt_pending (b : Byte) : (s.setSt b).pending = s.pending := rfl
@[simp] theorem State.setSt_policy (b : Byte) : (s.setSt b).policy = s.policy := rfl
@[simp] theorem State.setSt_reg (b : Byte) (r : Reg) : (s.setSt b).reg r = s.reg r := rfl
@[simp] theorem State.setSt_keyFlag (b : Byte) (j : Key) : (s.setSt b).keyFlag j = s.keyFlag j := rfl
@[simp] theorem State.setSt_readByte (b : Byte) (n : Nat) : (s.setSt b).readByte n = s.readByte n := rfl

@[simp] theorem State.setFb_v (f : Frame) : (s.setFb f).v = s.v := rfl
@[simp] theorem State.setFb_i (f : Frame) : (s.setFb f).i = s.i := rfl
@[simp] theorem State.setFb_pc (f : Frame) : (s.setFb f).pc = s.pc := rfl
@[simp] theorem State.setFb_stack (f : Frame) : (s.setFb f).stack = s.stack := rfl
@[simp] theorem State.setFb_dt (f : Frame) : (s.setFb f).dt = s.dt := rfl
@[simp] theorem State.setFb_st (f : Frame) : (s.setFb f).st = s.st := rfl
@[simp] theorem State.setFb_fb (f : Frame) : (s.setFb f).fb = f := rfl
@[simp] theorem State.setFb_key (f : Frame) : (s.setFb f).key = s.key := rfl
@[simp] theorem State.setFb_wait (f : Frame) : (s.setFb f).wait = s.wait := rfl
@[simp] theorem State.setFb_mem (f : Frame) : (s.setFb f).mem = s.mem := rfl
@[simp] theorem State.setFb_cfg (f : Frame) : (s.setFb f).cfg = s.cfg := rfl
@[simp] theorem State.setFb_draws (f : Frame) : (s.setFb f).draws = s.draws := rfl
@[simp] theorem State.setFb_pending (f : Frame) : (s.setFb f).pending = s.pending := rfl
@[simp] theorem State.setFb_policy (f : Frame) : (s.setFb f).policy = s.policy := rfl
@[simp] theorem State.setFb_reg (f : Frame) (r : Reg) : (s.setFb f).reg r = s.reg r := rfl
@[simp] theorem State.setFb_keyFlag (f : Frame) (j : Key) : (s.setFb f).keyFlag j = s.keyFlag j := rfl
@[simp] theorem State.setFb_readByte (f : Frame) (n : Nat) : (s.setFb f).readByte n = s.readByte n := rfl

@[simp] theorem State.setKeyFlag_v (k : Key) (p : Bool) : (s.setKeyFlag k p).v = s.v := rfl
@[simp] theorem State.setKeyFlag_i (k : Key) (p : Bool) : (s.setKeyFlag k p).i = s.i := rfl
@[simp] theorem State.setKeyFlag_pc (k : Key) (p : Bool) : (s.setKeyFlag k p).pc = s.pc := rfl
@[simp] theorem State.setKeyFlag_stack (k : Key) (p : Bool) : (s.setKeyFlag k p).stack = s.stack := rfl
@[simp] theorem State.setKeyFlag_dt (k : Key) (p : Bool) : (s.setKeyFlag k p).dt = s.dt := rfl
@[simp] theorem State.setKeyFlag_st (k : Key) (p : Bool) : (s.setKeyFlag k p).st = s.st := rfl
@[simp] theorem State.setKeyFlag_fb (k : Key) (p : Bool) : (s.setKeyFlag k p).fb = s.fb := rfl
@[simp] theorem State.setKeyFlag_wait (k : Key) (p : Bool) : (s.setKeyFlag k p).wait = s.wait := rfl
@[simp] theorem State.setKeyFlag_mem (k : Key) (p : Bool) : (s.setKeyFlag k p).mem = s.mem := rfl
@[simp] theorem State.setKeyFlag_cfg (k : Key) (p : Bool) : (s.setKeyFlag k p).cfg = s.cfg := rfl
@[simp] theorem State.setKeyFlag_draws (k : Key) (p : Bool) : (s.setKeyFlag k p).draws = s.draws := rfl
@[simp] theorem State.setKeyFlag_pending (k : Key) (p : Bool) : (s.setKeyFlag k p).pending = s.pending := rfl
@[simp] theorem State.setKeyFlag_policy (k : Key) (p : Bool) : (s.setKeyFlag k p).policy = s.policy := rfl
@[simp] theorem State.setKeyFlag_reg (k : Key) (p : Bool) (r : Reg) : (s.setKeyFlag k p).reg r = s.reg r := rfl
@[simp] theorem State.setKeyFlag_readByte (k : Key) (p : Bool) (n : Nat) : (s.setKeyFlag k p).readByte n = s.readByte n := rfl

@[simp] theorem State.setWait_v (w : Wait) : (s.setWait w).v = s.v := rfl
@[simp] theorem State.setWait_i (w : Wait) : (s.setWait w).i = s.i := rfl
@[simp] theorem State.setWait_pc (w : Wait) : (s.setWait w).pc = s.pc := rfl
@[simp] theorem State.setWait_stack (w : Wait) : (s.setWait w).stack = s.stack := rfl
@[simp] theorem State.setWait_dt (w : Wait) : (s.setWait w).dt = s.dt := rfl
@[simp] theorem State.setWait_st (w : Wait) : (s.setWait w).st = s.st := rfl
@[simp] theorem State.setWait_fb (w : Wait) : (s.setWait w).fb = s.fb := rfl
@[simp] theorem State.setWait_key (w : Wait) : (s.setWait w).key = s.key := rfl
@[simp] theorem State.setWait_wait (w : Wait) : (s.setWait w).wait = w := rfl
@[simp] theorem State.setWait_mem (w : Wait) : (s.setWait w).mem = s.mem := rfl
@[simp] theorem State.setWait_cfg (w : Wait) : (s.setWait w).cfg = s.cfg := rfl
@[simp] theorem State.setWait_draws (w : Wait) : (s.setWait w).draws = s.draws := rfl
@[simp] theorem State.setWait_pending (w : Wait) : (s.setWait w).pending = s.pending := rfl
@[simp] theorem State.setWait_policy (w : Wait) : (s.setWait w).policy = s.policy := rfl
@[simp] theorem State.setWait_reg (w : Wait) (r : Reg) : (s.setWait w).reg r = s.reg r := rfl
@[simp] theorem State.setWait_keyFlag (w : Wait) (j : Key) : (s.setWait w).keyFlag j = s.keyFlag j := rfl
@[simp] theorem State.setWait_readByte (w : Wait) (n : Nat) : (s.setWait w).readByte n = s.readByte n := rfl

@[simp] theorem State.setMem_v (m : List Host.Cell) : (s.setMem m).v = s.v := rfl
@[simp] theorem State.setMem_i (m : List Host.Cell) : (s.setMem m).i = s.i := rfl
@[simp] theorem State.setMem_pc (m : List Host.Cell) : (s.setMem m).pc = s.pc := rfl
@[simp] theorem State.setMem_stack (m : List Host.Cell) : (s.setMem m).stack = s.stack := rfl
@[simp] theorem State.setMem_dt (m : List Host.Cell) : (s.setMem m).dt = s.dt := rfl
@[simp] theorem State.setMem_st (m : List Host.Cell) : (s.setMem m).st = s.st := rfl
@[simp] theorem State.setMem_fb (m : List Host.Cell) : (s.setMem m).fb = s.fb := rfl
@[simp] theorem State.setMem_key (m : List Host.Cell) : (s.setMem m).key = s.key := rfl
@[simp] theorem State.setMem_wait (m : List Host.Cell) : (s.setMem m).wait = s.wait := rfl
@[simp] theorem State.setMem_mem (m : List Host.Cell) : (s.setMem m).mem = m := rfl
@[simp] theorem State.setMem_cfg (m : List Host.Cell) : (s.setMem m).cfg = s.cfg := rfl
@[simp] theorem State.setMem_draws (m : List Host.Cell) : (s.setMem m).draws = s.draws := rfl
@[simp] theorem State.setMem_pending (m : List Host.Cell) : (s.setMem m).pending = s.pending := rfl
@[simp] theorem State.setMem_policy (m : List Host.Cell) : (s.setMem m).policy = s.policy := rfl
@[simp] theorem State.setMem_reg (m : List Host.Cell) (r : Reg) : (s.setMem m).reg r = s.reg r := rfl
@[simp] theorem State.setMem_keyFlag (m : List Host.Cell) (j : Key) : (s.setMem m).keyFlag j = s.keyFlag j := rfl

@[simp] theorem State.bumpDraws_v : (s.bumpDraws).v = s.v := rfl
@[simp] theorem State.bumpDraws_i : (s.bumpDraws).i = s.i := rfl
@[simp] theorem State.bumpDraws_pc : (s.bumpDraws).pc = s.pc := rfl
@[simp] theorem State.bumpDraws_stack : (s.bumpDraws).stack = s.stack := rfl
@[simp] theorem State.bumpDraws_dt : (s.bumpDraws).dt = s.dt := rfl
@[simp] theorem State.bumpDraws_st : (s.bumpDraws).st = s.st := rfl
@[simp] theorem State.bumpDraws_fb : (s.bumpDraws).fb = s.fb := rfl
@[simp] theorem State.bumpDraws_key : (s.bumpDraws).key = s.key := rfl
@[simp] theorem State.bumpDraws_wait : (s.bumpDraws).wait = s.wait := rfl
@[simp] theorem State.bumpDraws_mem : (s.bumpDraws).mem = s.mem := rfl
@[simp] theorem State.bumpDraws_cfg : (s.bumpDraws).cfg = s.cfg := rfl
@[simp] theorem State.bumpDraws_draws : (s.bumpDraws).draws = s.draws + 1 := rfl
@[simp] theorem State.bumpDraws_pending : (s.bumpDraws).pending = s.pending := rfl
@[simp] theorem State.bumpDraws_policy : (s.bumpDraws).policy = s.policy := rfl
@[simp] theorem State.bumpDraws_reg (r : Reg) : (s.bumpDraws).reg r = s.reg r := rfl
@[simp] theorem State.bumpDraws_keyFlag (j : Key) : (s.bumpDraws).keyFlag j = s.keyFlag j := rfl
@[simp] theorem State.bumpDraws_readByte (n : Nat) : (s.bumpDraws).readByte n = s.readByte n := rfl

@[simp] theorem State.setPending_v (l : List HostOp) : (s.setPending l).v = s.v := rfl
@[simp] theorem State.setPending_i (l : List HostOp) : (s.setPending l).i = s.i := rfl
@[simp] theorem State.setPending_pc (l : List HostOp) : (s.setPending l).pc = s.pc := rfl
@[simp] theorem State.setPending_stack (l : List HostOp) : (s.setPending l).stack = s.stack := rfl
@[simp] theorem State.setPending_dt (l : List HostOp) : (s.setPending l).dt = s.dt := rfl
@[simp] theorem State.setPending_st (l : List HostOp) : (s.setPending l).st = s.st := rfl
@[simp] theorem State.setPending_fb (l : List HostOp) : (s.setPending l).fb = s.fb := rfl
@[simp] theorem State.setPending_key (l : List HostOp) : (s.setPending l).key = s.key := rfl
@[simp] theorem State.setPending_wait (l : List HostOp) : (s.setPending l).wait = s.wait := rfl
@[simp] theorem State.setPending_mem (l : List HostOp) : (s.setPending l).mem = s.mem := rfl
@[simp] theorem State.setPending_cfg (l : List HostOp) : (s.setPending l).cfg = s.cfg := rfl
@[simp] theorem State.setPending_draws (l : List HostOp) : (s.setPending l).draws = s.draws := rfl
@[simp] theorem State.setPending_pending (l : List HostOp) : (s.setPending l).pending = l := rfl
@[simp] theorem State.setPending_policy (l : List HostOp) : (s.setPending l).policy = s.policy := rfl
@[simp] theorem State.setPending_reg (l : List HostOp) (r : Reg) : (s.setPending l).reg r = s.reg r := rfl
@[simp] theorem State.setPending_keyFlag (l : List HostOp) (j : Key) : (s.setPending l).keyFlag j = s.keyFlag j := rfl
@[simp] theorem State.setPending_readByte (l : List HostOp) (n : Nat) : (s.setPending l).readByte n = s.readByte n := rfl

@[simp] theorem State.writeByte_v (a : Nat) (b : Byte) : (s.writeByte a b).v = s.v := rfl
@[simp] theorem State.writeByte_i (a : Nat) (b : Byte) : (s.writeByte a b).i = s.i := rfl
@[simp] theorem State.writeByte_pc (a : Nat) (b : Byte) : (s.writeByte a b).pc = s.pc := rfl
@[simp] theorem State.writeByte_stack (a : Nat) (b : Byte) : (s.writeByte a b).stack = s.stack := rfl
@[simp] theorem State.writeByte_dt (a : Nat) (b : Byte) : (s.writeByte a b).dt = s.dt := rfl
@[simp] theorem State.writeByte_st (a : Nat) (b : Byte) : (s.writeByte a b).st = s.st := rfl
@[simp] theorem State.writeByte_fb (a : Nat) (b : Byte) : (s.writeByte a b).fb = s.fb := rfl
@[simp] theorem State.writeByte_key (a : Nat) (b : Byte) : (s.writeByte a b).key = s.key := rfl
@[simp] theorem State.writeByte_wait (a : Nat) (b : Byte) : (s.writeByte a b).wait = s.wait := rfl
@[simp] theorem State.writeByte_mem (a : Nat) (b : Byte) : (s.writeByte a b).mem = Memory.write s.cfg.font s.mem a b := rfl
@[simp] theorem State.writeByte_cfg (a : Nat) (b : Byte) : (s.writeByte a b).cfg = s.cfg := rfl
@[simp] theorem State.writeByte_draws (a : Nat) (b : Byte) : (s.writeByte a b).draws = s.draws := rfl
@[simp] theorem State.writeByte_pending (a : Nat) (b : Byte) : (s.writeByte a b).pending = s.pending := rfl
@[simp] theorem State.writeByte_policy (a : Nat) (b : Byte) : (s.writeByte a b).policy = s.policy := rfl
@[simp] theorem State.writeByte_reg (a : Nat) (b : Byte) (r : Reg) : (s.writeByte a b).reg r = s.reg r := rfl
@[simp] theorem State.writeByte_keyFlag (a : Nat) (b : Byte) (j : Key) : (s.writeByte a b).keyFlag j = s.keyFlag j := rfl

@[simp] theorem State.storeBytes_v (a : Nat) (bs : List Byte) : (s.storeBytes a bs).v = s.v := rfl
@[simp] theorem State.storeBytes_i (a : Nat) (bs : List Byte) : (s.storeBytes a bs).i = s.i := rfl
@[simp] theorem State.storeBytes_pc (a : Nat) (bs : List Byte) : (s.storeBytes a bs).pc = s.pc := rfl
@[simp] theorem State.storeBytes_stack (a : Nat) (bs : List Byte) : (s.storeBytes a bs).stack = s.stack := rfl
@[simp] theorem State.storeBytes_dt (a : Nat) (bs : List Byte) : (s.storeBytes a bs).dt = s.dt := rfl
@[simp] theorem State.storeBytes_st (a : Nat) (bs : List Byte) : (s.storeBytes a bs).st = s.st := rfl
@[simp] theorem State.storeBytes_fb (a : Nat) (bs : List Byte) : (s.storeBytes a bs).fb = s.fb := rfl
@[simp] theorem State.storeBytes_key (a : Nat) (bs : List Byte) : (s.storeBytes a bs).key = s.key := rfl
@[simp] theorem State.storeBytes_wait (a : Nat) (bs : List Byte) : (s.storeBytes a bs).wait = s.wait := rfl
@[simp] theorem State.storeBytes_mem (a : Nat) (bs : List Byte) : (s.storeBytes a bs).mem = Memory.writeAll s.cfg.font s.mem a bs := rfl
@[simp] theorem State.storeBytes_cfg (a : Nat) (bs : List Byte) : (s.storeBytes a bs).cfg = s.cfg := rfl
@[simp] theorem State.storeBytes_draws (a : Nat) (bs : List Byte) : (s.storeBytes a bs).draws = s.draws := rfl
@[simp] theorem State.storeBytes_pending (a : Nat) (bs : List Byte) : (s.storeBytes a bs).pending = s.pending := rfl
@[simp] theorem State.storeBytes_policy (a : Nat) (bs : List Byte) : (s.storeBytes a bs).policy = s.policy := rfl
@[simp] theorem State.storeBytes_reg (a : Nat) (bs : List Byte) (r : Reg) : (s.storeBytes a bs).reg r = s.reg r := rfl
@[simp] theorem State.storeBytes_keyFlag (a : Nat) (bs : List Byte) (j : Key) : (s.storeBytes a bs).keyFlag j = s.keyFlag j := rfl

@[simp] theorem State.advance_v : (s.advance).v = s.v := rfl
@[simp] theorem State.advance_i : (s.advance).i = s.i := rfl
@[simp] theorem State.advance_pc : (s.advance).pc = s.pc + 2 := rfl
@[simp] theorem State.advance_stack : (s.advance).stack = s.stack := rfl
@[simp] theorem State.advance_dt : (s.advance).dt = s.dt := rfl
@[simp] theorem State.advance_st : (s.advance).st = s.st := rfl
@[simp] theorem State.advance_fb : (s.advance).fb = s.fb := rfl
@[simp] theorem State.advance_key : (s.advance).key = s.key := rfl
@[simp] theorem State.advance_wait : (s.advance).wait = s.wait := rfl
@[simp] theorem State.advance_mem : (s.advance).mem = s.mem := rfl
@[simp] theorem State.advance_cfg : (s.advance).cfg = s.cfg := rfl
@[simp] theorem State.advance_draws : (s.advance).draws = s.draws := rfl
@[simp] theorem State.advance_pending : (s.advance).pending = s.pending := rfl
@[simp] theorem State.advance_policy : (s.advance).policy = s.policy := rfl
@[simp] theorem State.advance_reg (r : Reg) : (s.advance).reg r = s.reg r := rfl
@[simp] theorem State.advance_keyFlag (j : Key) : (s.advance).keyFlag j = s.keyFlag j := rfl
@[simp] theorem State.advance_readByte (n : Nat) : (s.advance).readByte n = s.readByte n := rfl

@[simp] theorem State.setFlag_i (c : Bool) : (s.setFlag c).i = s.i := rfl
@[simp] theorem State.setFlag_pc (c : Bool) : (s.setFlag c).pc = s.pc := rfl
@[simp] theorem State.setFlag_stack (c : Bool) : (s.setFlag c).stack = s.stack := rfl
@[simp] theorem State.setFlag_dt (c : Bool) : (s.setFlag c).dt = s.dt := rfl
@[simp] theorem State.setFlag_st (c : Bool) : (s.setFlag c).st = s.st := rfl
@[simp] theorem State.setFlag_fb (c : Bool) : (s.setFlag c).fb = s.fb := rfl
@[simp] theorem State.setFlag_key (c : Bool) : (s.setFlag c).key = s.key := rfl
@[simp] theorem State.setFlag_wait (c : Bool) : (s.setFlag c).wait = s.wait := rfl
@[simp] theorem State.setFlag_mem (c : Bool) : (s.setFlag c).mem = s.mem := rfl
@[simp] theorem State.setFlag_cfg (c : Bool) : (s.setFlag c).cfg = s.cfg := rfl
@[simp] theorem State.setFlag_draws (c : Bool) : (s.setFlag c).draws = s.draws := rfl
@[simp] theorem State.setFlag_pending (c : Bool) : (s.setFlag c).pending = s.pending := rfl
@[simp] theorem State.setFlag_policy (c : Bool) : (s.setFlag c).policy = s.policy := rfl
@[simp] theorem State.setFlag_keyFlag (c : Bool) (j : Key) : (s.setFlag c).keyFlag j = s.keyFlag j := rfl
@[simp] theorem State.setFlag_readByte (c : Bool) (n : Nat) : (s.setFlag c).readByte n = s.readByte n := rfl

/-- Reading a register back: the value written for the register written, the old one for every other (10_state.md R21). -/
@[simp] theorem State.setReg_reg (x : Reg) (b : Byte) (r : Reg) : (s.setReg x b).reg r = if r = x then b else s.reg r := by
  by_cases h : r = x
  · subst h; simp [State.reg, State.setReg]
  · have : x.val ≠ r.val := fun e => h (Fin.ext e.symm)
    simp [State.reg, State.setReg, this, h]

@[simp] theorem State.setFlag_reg (c : Bool) (r : Reg) : (s.setFlag c).reg r = if r = 15 then b2i c else s.reg r :=
  State.setReg_reg s 15 (b2i c) r

@[simp] theorem State.setKeyFlag_keyFlag (k : Key) (p : Bool) (j : Key) :
    (s.setKeyFlag k p).keyFlag j = if j = k then p else s.keyFlag j := by
  by_cases h : j = k
  · subst h; simp [State.keyFlag, State.setKeyFlag]
  · have : k.val ≠ j.val := fun e => h (Fin.ext e.symm)
    simp [State.keyFlag, State.setKeyFlag, this, h]

/-- The drop of the operation about to be performed touches nothing but the host's list. -/
theorem State.setPending_self : s.setPending s.pending = s := rfl

end Sys2Proof.Machine
end

