-- ==== Sys2Proof/Laws/Memory.lean ====
section
/-! SUPPORT. The laws of memory: a read after a write, and that every memory operation keeps the canonical form. -/

namespace Sys2Proof.Machine

variable (font : Vector Byte 80)

theorem Memory.find_insert (m : List Host.Cell) (a : Nat) (b : Byte) (n : Nat) :
    Memory.find (Memory.insert m a b) n = if a = n then some b else Memory.find m n := by
  induction m with
  | nil => simp [Memory.insert, Memory.find]
  | cons c m ih =>
    obtain ⟨k, c⟩ := c
    simp only [Memory.insert]
    split
    · simp [Memory.find]
    · split
      · subst_vars; simp only [Memory.find]; split <;> simp_all
      · simp only [Memory.find, ih]; split <;> split <;> simp_all

theorem Memory.find_erase (m : List Host.Cell) (a n : Nat) :
    Memory.find (Memory.erase m a) n = if a = n then none else Memory.find m n := by
  induction m with
  | nil => simp [Memory.erase, Memory.find]
  | cons c m ih =>
    obtain ⟨k, c⟩ := c
    simp only [Memory.erase]
    split
    · subst_vars; simp only [Memory.find, ih]; split <;> simp_all
    · simp only [Memory.find, ih]; split <;> split <;> simp_all

/-- A read after a write: the byte written there, the old byte everywhere else (20_memory.md R53, R63). -/
theorem Memory.read_write (m : List Host.Cell) (a : Nat) (b : Byte) (n : Nat) :
    Memory.read font (Memory.write font m a b) n = if a = n then b else Memory.read font m n := by
  unfold Memory.read Memory.write
  split
  · rw [Memory.find_erase]; split <;> simp_all
  · rw [Memory.find_insert]; split <;> simp_all

/-- A read after a run of byte writes: the byte of the run inside it, the old byte outside it. -/
theorem Memory.read_writeAll (bs : List Byte) (m : List Host.Cell) (a n : Nat) :
    Memory.read font (Memory.writeAll font m a bs) n =
      if a ≤ n ∧ n < a + bs.length then bs.getD (n - a) 0#8 else Memory.read font m n := by
  induction bs generalizing m a with
  | nil => simp [Memory.writeAll]
  | cons b bs ih =>
    simp only [Memory.writeAll, ih, Memory.read_write, List.length_cons]
    by_cases h1 : a = n
    · subst h1; simp
    · by_cases h2 : a ≤ n ∧ n < a + (bs.length + 1)
      · have h3 : a + 1 ≤ n ∧ n < a + 1 + bs.length := by omega
        have h4 : n - a = (n - (a + 1)) + 1 := by omega
        rw [if_pos h2, if_pos h3, h4, List.getD_cons_succ]
      · have h3 : ¬(a + 1 ≤ n ∧ n < a + 1 + bs.length) := by omega
        rw [if_neg h2, if_neg h3, if_neg h1]

theorem Memory.mem_insert {m : List Host.Cell} {a : Nat} {b : Byte} {c : Host.Cell} (h : c ∈ Memory.insert m a b) :
    c = (a, b) ∨ c ∈ m := by
  induction m with
  | nil => simpa [Memory.insert] using h
  | cons d m ih =>
    obtain ⟨k, e⟩ := d
    simp only [Memory.insert] at h
    split at h
    · simpa using h
    · split at h
      · rcases List.mem_cons.1 h with h | h <;> simp [h]
      · rcases List.mem_cons.1 h with h | h
        · simp [h]
        · rcases ih h with h | h <;> simp [h]

theorem Memory.mem_erase {m : List Host.Cell} {a : Nat} {c : Host.Cell} (h : c ∈ Memory.erase m a) : c ∈ m := by
  induction m with
  | nil => simp [Memory.erase] at h
  | cons d m ih =>
    obtain ⟨k, e⟩ := d
    simp only [Memory.erase] at h
    split at h
    · exact List.mem_cons_of_mem _ (ih h)
    · rcases List.mem_cons.1 h with h | h
      · simp [h]
      · exact List.mem_cons_of_mem _ (ih h)

theorem Memory.insert_rising {m : List Host.Cell} (a : Nat) (b : Byte) (h : (m.map Prod.fst).Pairwise (· < ·)) :
    ((Memory.insert m a b).map Prod.fst).Pairwise (· < ·) := by
  induction m with
  | nil => simp [Memory.insert]
  | cons d m ih =>
    obtain ⟨k, e⟩ := d
    have hk := List.pairwise_cons.1 h
    simp only [Memory.insert]
    split
    · rename_i hlt
      refine List.pairwise_cons.2 ⟨?_, h⟩
      intro x hx
      rcases List.mem_cons.1 hx with hx | hx
      · exact hx ▸ hlt
      · exact Nat.lt_trans hlt (hk.1 x hx)
    · split
      · subst_vars; exact h
      · refine List.pairwise_cons.2 ⟨?_, ih hk.2⟩
        intro x hx
        obtain ⟨c, hc, rfl⟩ := List.mem_map.1 hx
        rcases Memory.mem_insert hc with rfl | hc
        · show k < a; omega
        · exact hk.1 _ (List.mem_map_of_mem hc)

theorem Memory.erase_rising {m : List Host.Cell} (a : Nat) (h : (m.map Prod.fst).Pairwise (· < ·)) :
    ((Memory.erase m a).map Prod.fst).Pairwise (· < ·) := by
  induction m with
  | nil => simp [Memory.erase]
  | cons d m ih =>
    obtain ⟨k, e⟩ := d
    have hk := List.pairwise_cons.1 h
    simp only [Memory.erase]
    split
    · exact ih hk.2
    · refine List.pairwise_cons.2 ⟨?_, ih hk.2⟩
      intro x hx
      obtain ⟨c, hc, rfl⟩ := List.mem_map.1 hx
      exact hk.1 _ (List.mem_map_of_mem (Memory.mem_erase hc))

/-- A byte write inside 0x000 to 0xFFF keeps the canonical form. -/
theorem Memory.write_wf {m : List Host.Cell} {a : Nat} (b : Byte) (ha : a ≤ 0xFFF) (h : Memory.wf font m) :
    Memory.wf font (Memory.write font m a b) := by
  unfold Memory.write
  split
  · exact ⟨Memory.erase_rising a h.1, fun c hc => h.2 c (Memory.mem_erase hc)⟩
  · rename_i hb
    refine ⟨Memory.insert_rising a b h.1, fun c hc => ?_⟩
    rcases Memory.mem_insert hc with rfl | hc
    · exact ⟨ha, hb⟩
    · exact h.2 c hc

/-- A run of byte writes inside 0x000 to 0xFFF keeps the canonical form. -/
theorem Memory.writeAll_wf {bs : List Byte} {m : List Host.Cell} {a : Nat} (ha : a + bs.length ≤ 0x1000) (h : Memory.wf font m) :
    Memory.wf font (Memory.writeAll font m a bs) := by
  induction bs generalizing m a with
  | nil => exact h
  | cons b bs ih =>
    simp only [List.length_cons] at ha
    exact ih (by omega) (Memory.write_wf font b (by omega) h)

/-- The memory reset leaves is in canonical form. -/
theorem Memory.nil_wf : Memory.wf font [] := by simp [Memory.wf]

@[simp] theorem State.writeByte_readByte (s : State) (a : Nat) (b : Byte) (n : Nat) :
    (s.writeByte a b).readByte n = if a = n then b else s.readByte n :=
  Memory.read_write s.cfg.font s.mem a b n

@[simp] theorem State.storeBytes_readByte (s : State) (a : Nat) (bs : List Byte) (n : Nat) :
    (s.storeBytes a bs).readByte n = if a ≤ n ∧ n < a + bs.length then bs.getD (n - a) 0#8 else s.readByte n :=
  Memory.read_writeAll s.cfg.font bs s.mem a n

end Sys2Proof.Machine
end

