-- ==== Sys2Proof/Laws/Ops.lean ====
section
/-! SUPPORT. One lemma for each shared operation, saying once what it can do; later proofs cite these and unfold nothing. -/

namespace Sys2Proof.Machine

/-! ### Errors and bounds -/

theorem guardBound_eq_next {limit last : Nat} {k : Result} {t : State} :
    guardBound limit last k = .next t ↔ last ≤ limit ∧ k = .next t := by
  unfold guardBound raise
  split
  · simp; omega
  · simp; omega

theorem guardBound_eq_fault {limit last : Nat} {k : Result} {f : Fault} :
    guardBound limit last k = .fault f ↔ (limit < last ∧ f = .outOfBounds last) ∨ (last ≤ limit ∧ k = .fault f) := by
  unfold guardBound raise
  split
  · rename_i h
    have h' : ¬ last ≤ limit := by omega
    simp [h, h', eq_comm]
  · rename_i h
    have h' : last ≤ limit := by omega
    simp [h, h']

theorem guardBound_of_le {limit last : Nat} {k : Result} (h : last ≤ limit) : guardBound limit last k = k := by
  unfold guardBound; rw [if_neg (by omega)]

theorem guardBound_of_lt {limit last : Nat} {k : Result} (h : limit < last) :
    guardBound limit last k = .fault (.outOfBounds last) := by
  unfold guardBound raise; rw [if_pos h]

theorem guardSprite_eq_next {s t : State} {n : Nat} {k : Result} :
    guardSprite s n k = .next t ↔ (n = 0 ∨ effAddr s (n - 1) ≤ 0xFFF) ∧ k = .next t := by
  cases n with
  | zero => simp [guardSprite]
  | succ m => simp [guardSprite, guardBound_eq_next]

theorem withKey_eq_next {b : Byte} {k : Key → Result} {t : State} :
    withKey b k = .next t ↔ b.toNat ≤ 15 ∧ k (Fin.ofNat 16 b.toNat) = .next t := guardBound_eq_next

/-! ### Status (60_exceptions.md R206) -/

@[simp] theorem resultStatus_next (t : State) : resultStatus (.next t) = some 0 := rfl

@[simp] theorem resultStatus_fault (f : Fault) : resultStatus (.fault f) = some f.code := rfl

@[simp] theorem resultStatus_refused (q : Refusal) : resultStatus (.refused q) = none := rfl

/-- Every error's code is 1 to 5, so none is taken for `Ok`. -/
theorem code_range (f : Fault) : 1 ≤ f.code ∧ f.code ≤ 5 := by cases f <;> simp [Fault.code]

/-- Status 0 is success and nothing else. -/
theorem resultStatus_eq_zero {r : Result} : resultStatus r = some 0 ↔ ∃ t, r = .next t := by
  cases r with
  | next t => simp
  | fault f => have := code_range f; simp; omega
  | refused q => simp

/-! ### Stack -/

theorem pushReturn_eq_next {w : Word} {s t : State} {k : State → Result} :
    pushReturn w s k = .next t ↔ s.stack.length < 16 ∧ k (s.setStack (w :: s.stack)) = .next t := by
  unfold pushReturn raise
  split <;> simp_all

theorem popReturn_eq_next {s t : State} {k : Word → State → Result} :
    popReturn s k = .next t ↔ ∃ w rest, s.stack = w :: rest ∧ k w (s.setStack rest) = .next t := by
  unfold popReturn raise
  split <;> simp_all

/-! ### Program counter -/

theorem skipIf_eq (s : State) (c : Bool) : s.skipIf c = s.setPc (if c then s.pc + 2 else s.pc) := by
  cases c <;> rfl

@[simp] theorem skipIf_pc (s : State) (c : Bool) : (s.skipIf c).pc = if c then s.pc + 2 else s.pc := by
  rw [skipIf_eq]; rfl

/-- The pre-advance does not wrap: a fetch succeeds only below 0xFFF (40_operations.md R105). -/
theorem advance_pc_toNat {s : State} (h : s.canFetch) : s.advance.pc.toNat = s.pc.toNat + 2 := by
  have : s.pc.toNat ≤ 0xFFE := h
  have h2 : (2 : Word).toNat = 2 := rfl
  rw [State.advance_pc, BitVec.toNat_add, h2, Nat.mod_eq_of_lt (by omega)]

/-! ### Results and flags -/

/-- The flag is written last (42_register_alu.md R153). -/
@[simp] theorem setResultFlag_reg (s : State) (x : Reg) (r : Byte) (c : Bool) (j : Reg) :
    (s.setResultFlag x r c).reg j = if j = 15 then b2i c else if j = x then r else s.reg j := by
  simp [State.setResultFlag]

theorem setResultFlag_eq (s : State) (x : Reg) (r : Byte) (c : Bool) :
    s.setResultFlag x r c = (s.setReg x r).setReg 15 (b2i c) := rfl

/-! ### Loads -/

theorem loadBytes_reg (s : State) (base count : Nat) (h : count ≤ 16) (j : Reg) :
    (s.loadBytes base count).reg j = if j.val < count then s.readByte (base + j.val) else s.reg j := by
  induction count with
  | zero => simp [State.loadBytes]
  | succ n ih =>
    have hn : (Fin.ofNat 16 n).val = n := Nat.mod_eq_of_lt (by omega)
    simp only [State.loadBytes, State.setReg_reg, ih (by omega)]
    by_cases hj : j.val = n
    · have : j = Fin.ofNat 16 n := Fin.ext (by rw [hn, hj])
      rw [if_pos this, if_pos (by omega), hj]
    · have : j ≠ Fin.ofNat 16 n := fun e => hj (by rw [e, hn])
      rw [if_neg this]
      by_cases hlt : j.val < n
      · rw [if_pos hlt, if_pos (by omega)]
      · rw [if_neg hlt, if_neg (by omega)]

/-- A run of register loads changes nothing but the registers. -/
theorem loadBytes_eq (s : State) (base count : Nat) : ∃ v, s.loadBytes base count = { s with v := v } := by
  induction count with
  | zero => exact ⟨s.v, rfl⟩
  | succ n ih =>
    obtain ⟨v, hv⟩ := ih
    exact ⟨_, by rw [State.loadBytes, hv]; rfl⟩

/-! ### Framebuffer -/

@[simp] theorem clear_pixel (y : Fin 32) (x : Fin 64) : Frame.clear.pixel y x = false := by
  simp [Frame.clear, Frame.pixel]

/-- Reading a pixel back: the value written for the pixel written, the old one for every other. -/
theorem pixel_setPixel (f : Frame) (y : Fin 32) (x : Fin 64) (p : Bool) (y' : Fin 32) (x' : Fin 64) :
    (f.setPixel y x p).pixel y' x' = if y' = y ∧ x' = x then p else f.pixel y' x' := by
  have hx : ∀ k : Nat, k < 64 → (1#64 <<< x.val).getLsbD k = decide (k = x.val) := by
    intro k hk
    simp only [BitVec.getLsbD_shiftLeft, BitVec.getLsbD_one]
    by_cases h : k = x.val
    · subst h; simp
    · rcases Nat.lt_or_gt_of_ne h with h' | h'
      · simp [h, h']
      · have : k - x.val ≠ 0 := by omega
        simp [h, this]
  by_cases hy : y' = y
  · subst hy
    have hxx : (x' = x) ↔ x'.val = x.val := Fin.ext_iff
    cases p <;>
      simp only [Frame.setPixel, Frame.pixel, Vector.getElem_set_self, if_true, if_false, Bool.false_eq_true,
        BitVec.getLsbD_or, BitVec.getLsbD_and, BitVec.getLsbD_not, hx _ x'.isLt, true_and, hxx] <;>
      by_cases h : x'.val = x.val <;> simp [h]
  · have : y.val ≠ y'.val := fun e => hy (Fin.ext e.symm)
    simp [Frame.setPixel, Frame.pixel, this, hy]

/-! ### The step -/

/-- What a step can do: perform the host's next operation, or go on after its error where the host's policy says so. -/
theorem step_eq_next {s t : State} :
    step s = .next t ↔
      perform s.nextOp s.popOp = .next t ∨
        ∃ f, perform s.nextOp s.popOp = .fault f ∧ s.policy = .goOn ∧ t = afterError s.nextOp s.popOp := by
  have hp : s.popOp.policy = s.policy := rfl
  unfold step runNextOp settleError
  cases h : perform s.nextOp s.popOp with
  | next u => simp
  | fault f => rw [hp]; cases s.policy <;> simp [eq_comm]
  | refused q => simp

/-- What a cycle can do while it does not wait. -/
theorem cycleRun_eq_next {s t : State} :
    cycleRun s = .next t ↔ s.canFetch ∧ ∃ i, decodeWord s.fetchWord = .ok i ∧ exec i s.advance = .next t := by
  unfold cycleRun raise
  split
  · rename_i h
    split <;> rename_i h' <;> simp [h, h']
  · rename_i h
    simp [h]

end Sys2Proof.Machine
end

