-- ==== Sys2Proof/Laws/Blit.lean ====
section
/-! SUPPORT. What the blit does, said once: it is one pass over the sprite's pixels, each of which names its own framebuffer pixel
(44_display.md R183), so every pixel under a 1 bit is inverted once and the collision flag is read off the old framebuffer. -/

namespace Sys2Proof.Machine

/-- The framebuffer pixel a sprite pixel names (R182). -/
def blitTarget (x0 y0 : Nat) (p : Nat × Nat) : Fin 32 × Fin 64 := (Fin.ofNat 32 (y0 + p.1), Fin.ofNat 64 (x0 + p.2))

/-- The sprite pixel is drawn and its bit is 1. -/
def blitSets (clip : Bool) (x0 y0 : Nat) (sprite : Nat → Byte) (p : Nat × Nat) : Bool :=
  !(clip && (decide (63 < x0 + p.2) || decide (31 < y0 + p.1))) && spriteBit (sprite p.1) p.2

/-- The sprite pixels in the order the blit visits them. -/
def spritePixels (n : Nat) : List (Nat × Nat) := (List.range n).flatMap fun r => (List.range 8).map fun c => (r, c)

theorem mem_spritePixels {n : Nat} {p : Nat × Nat} : p ∈ spritePixels n ↔ p.1 < n ∧ p.2 < 8 := by
  obtain ⟨r, c⟩ := p
  simp [spritePixels]

/-- The two loops are one pass over the sprite's pixels. -/
theorem blit_eq_foldl (clip : Bool) (x0 y0 n : Nat) (sprite : Nat → Byte) (f : Frame) :
    blit clip x0 y0 n sprite f =
      (spritePixels n).foldl (fun acc p => blitPixel clip x0 y0 p.1 (sprite p.1) acc p.2) ⟨f, false⟩ := by
  simp only [blit, spritePixels, List.foldl_flatMap, List.foldl_map]
  rfl

/-- One sprite pixel inverts the framebuffer pixel it names when its bit is 1, and hits when that pixel was set. -/
theorem blitPixel_eq (clip : Bool) (x0 y0 : Nat) (sprite : Nat → Byte) (acc : Blit) (p : Nat × Nat) (q : Fin 32 × Fin 64) :
    (blitPixel clip x0 y0 p.1 (sprite p.1) acc p.2).frame.pixel q.1 q.2 =
        (acc.frame.pixel q.1 q.2 ^^ (blitSets clip x0 y0 sprite p && decide (blitTarget x0 y0 p = q))) ∧
      (blitPixel clip x0 y0 p.1 (sprite p.1) acc p.2).hit =
        (acc.hit || (blitSets clip x0 y0 sprite p && acc.frame.pixel (blitTarget x0 y0 p).1 (blitTarget x0 y0 p).2)) := by
  obtain ⟨q1, q2⟩ := q
  unfold blitPixel blitSets
  split
  · rename_i h; simp [h]
  · rename_i h
    have h' : (clip && (decide (63 < x0 + p.2) || decide (31 < y0 + p.1))) = false := by simpa using h
    simp only [pixel_setPixel, h', Bool.not_false, Bool.true_and, blitTarget, Prod.mk.injEq]
    refine ⟨?_, by rw [Bool.and_comm]⟩
    by_cases e : q1 = Fin.ofNat 32 (y0 + p.1) ∧ q2 = Fin.ofNat 64 (x0 + p.2)
    · obtain ⟨rfl, rfl⟩ := e; simp
    · have e' : ¬(Fin.ofNat 32 (y0 + p.1) = q1 ∧ Fin.ofNat 64 (x0 + p.2) = q2) := fun k => e ⟨k.1.symm, k.2.symm⟩
      rw [if_neg e]; simp only [e', decide_false, Bool.and_false, Bool.xor_false]

/-- A pass over sprite pixels that name different framebuffer pixels. -/
theorem blit_pass (clip : Bool) (x0 y0 : Nat) (sprite : Nat → Byte) (l : List (Nat × Nat)) (acc : Blit)
    (h : l.Pairwise fun p q => blitTarget x0 y0 p ≠ blitTarget x0 y0 q) :
    (∀ q : Fin 32 × Fin 64, (l.foldl (fun a p => blitPixel clip x0 y0 p.1 (sprite p.1) a p.2) acc).frame.pixel q.1 q.2 =
        (acc.frame.pixel q.1 q.2 ^^ l.any fun p => blitSets clip x0 y0 sprite p && decide (blitTarget x0 y0 p = q))) ∧
      (l.foldl (fun a p => blitPixel clip x0 y0 p.1 (sprite p.1) a p.2) acc).hit =
        (acc.hit || l.any fun p => blitSets clip x0 y0 sprite p && acc.frame.pixel (blitTarget x0 y0 p).1 (blitTarget x0 y0 p).2) := by
  induction l generalizing acc with
  | nil => simp
  | cons p l ih =>
    have hp := List.pairwise_cons.1 h
    obtain ⟨ih1, ih2⟩ := ih (blitPixel clip x0 y0 p.1 (sprite p.1) acc p.2) hp.2
    have b := blitPixel_eq clip x0 y0 sprite acc p
    simp only [List.foldl_cons, List.any_cons]
    refine ⟨fun q => ?_, ?_⟩
    · rw [ih1 q, (b q).1]
      by_cases e : blitTarget x0 y0 p = q
      · have none : (l.any fun p' => blitSets clip x0 y0 sprite p' && decide (blitTarget x0 y0 p' = q)) = false := by
          rw [List.any_eq_false]
          intro p' hp'
          have : blitTarget x0 y0 p' ≠ q := fun k => hp.1 p' hp' (e.trans k.symm)
          simp [this]
        rw [none]; simp
      · simp [e]
    · rw [ih2, (b (0, 0)).2]
      have same : (l.any fun p' => blitSets clip x0 y0 sprite p' &&
            (blitPixel clip x0 y0 p.1 (sprite p.1) acc p.2).frame.pixel (blitTarget x0 y0 p').1 (blitTarget x0 y0 p').2) =
          l.any fun p' => blitSets clip x0 y0 sprite p' && acc.frame.pixel (blitTarget x0 y0 p').1 (blitTarget x0 y0 p').2 := by
        rw [Bool.eq_iff_iff, List.any_eq_true, List.any_eq_true]
        refine exists_congr fun p' => and_congr_right fun hp' => ?_
        rw [(b (blitTarget x0 y0 p')).1]
        simp [hp.1 p' hp']
      rw [same, Bool.or_assoc]

/-- Different pixels of a sprite of at most 32 rows name different framebuffer pixels (R183). -/
theorem blitTarget_injective {x0 y0 : Nat} {p q : Nat × Nat} (hp : p.1 < 32 ∧ p.2 < 8) (hq : q.1 < 32 ∧ q.2 < 8)
    (h : blitTarget x0 y0 p = blitTarget x0 y0 q) : p = q := by
  have h1 : (y0 + p.1) % 32 = (y0 + q.1) % 32 := congrArg (fun t => t.1.val) h
  have h2 : (x0 + p.2) % 64 = (x0 + q.2) % 64 := congrArg (fun t => t.2.val) h
  exact Prod.ext (by omega) (by omega)

theorem spritePixels_nodup (n : Nat) : (spritePixels n).Nodup := by
  unfold spritePixels
  rw [List.nodup_flatMap]
  refine ⟨fun r _ => List.Nodup.map (fun a b hab => congrArg Prod.snd hab) List.nodup_range, ?_⟩
  refine List.nodup_range.imp fun {a b} hab => ?_
  intro p hp hq
  simp only [List.mem_map] at hp hq
  obtain ⟨_, _, rfl⟩ := hp
  obtain ⟨_, _, hq⟩ := hq
  exact hab (congrArg Prod.fst hq).symm

theorem spritePixels_distinct {x0 y0 n : Nat} (hn : n ≤ 32) :
    (spritePixels n).Pairwise fun p q => blitTarget x0 y0 p ≠ blitTarget x0 y0 q := by
  refine (spritePixels_nodup n).imp_of_mem fun {p q} hp hq hpq h => hpq ?_
  rw [mem_spritePixels] at hp hq
  exact blitTarget_injective ⟨by omega, hp.2⟩ ⟨by omega, hq.2⟩ h

/-- The blit's spec: each pixel inverted exactly when a 1 bit of the sprite names it; a hit exactly when such a pixel was set. -/
theorem blit_spec (clip : Bool) (x0 y0 n : Nat) (sprite : Nat → Byte) (f : Frame) (hn : n ≤ 32) :
    (∀ (py : Fin 32) (px : Fin 64), (blit clip x0 y0 n sprite f).frame.pixel py px =
        (f.pixel py px ^^ (spritePixels n).any fun p => blitSets clip x0 y0 sprite p && decide (blitTarget x0 y0 p = (py, px)))) ∧
      (blit clip x0 y0 n sprite f).hit =
        (spritePixels n).any fun p => blitSets clip x0 y0 sprite p && f.pixel (blitTarget x0 y0 p).1 (blitTarget x0 y0 p).2 := by
  rw [blit_eq_foldl]
  obtain ⟨h1, h2⟩ := blit_pass clip x0 y0 sprite (spritePixels n) ⟨f, false⟩ (spritePixels_distinct hn)
  exact ⟨fun py px => h1 (py, px), by rw [h2, Bool.false_or]⟩

/-- Two framebuffers with the same pixels are the same. -/
theorem frame_ext {f g : Frame} (h : ∀ y x, f.pixel y x = g.pixel y x) : f = g := by
  apply Vector.ext
  intro y hy
  apply BitVec.eq_of_getLsbD_eq
  intro x hx
  exact h ⟨y, hy⟩ ⟨x, hx⟩

end Sys2Proof.Machine
end

