-- ==== Sys2Proof/Laws/Decode.lean ====
section
/-! SUPPORT. What each format and each field of an instruction word is, as numbers: the lemmas from which decoding and encoding
are reasoned about. -/

namespace Sys2Proof

theorem append_toNat {m n : Nat} (a : BitVec m) (b : BitVec n) : (a ++ b).toNat = a.toNat * 2 ^ n + b.toNat := by
  rw [BitVec.toNat_append, Nat.shiftLeft_eq, Nat.mul_comm, ← Nat.two_pow_add_eq_or_of_lt b.isLt]

theorem regField_toNat (r : Reg) : (regField r).toNat = r.val := by
  simp [regField]

@[simp] theorem fieldReg_regField (r : Reg) : fieldReg (regField r) = r := Fin.ext (regField_toNat r)

@[simp] theorem regField_fieldReg (f : BitVec 4) : regField (fieldReg f) = f := by
  apply BitVec.eq_of_toNat_eq; rw [regField_toNat]; rfl

theorem formatA_toNat (op : BitVec 4) (nnn : BitVec 12) : (formatA op nnn).toNat = op.toNat * 4096 + nnn.toNat :=
  append_toNat op nnn

theorem formatI_toNat (op : BitVec 4) (x : Reg) (nn : Byte) :
    (formatI op x nn).toNat = op.toNat * 4096 + x.val * 256 + nn.toNat := by
  have h : (formatI op x nn).toNat = (op.toNat * 2 ^ 4 + (regField x).toNat) * 2 ^ 8 + nn.toNat := by
    rw [← append_toNat op (regField x)]; exact append_toNat (op ++ regField x) nn
  rw [h, regField_toNat]; omega

theorem formatR_toNat (op : BitVec 4) (x y : Reg) (m : BitVec 4) :
    (formatR op x y m).toNat = op.toNat * 4096 + x.val * 256 + y.val * 16 + m.toNat := by
  have h : (formatR op x y m).toNat =
      (op.toNat * 2 ^ 4 + (regField x).toNat) * 2 ^ 8 + ((regField y).toNat * 2 ^ 4 + m.toNat) := by
    rw [← append_toNat op (regField x), ← append_toNat (regField y) m]
    exact append_toNat (op ++ regField x) (regField y ++ m)
  rw [h, regField_toNat, regField_toNat]; omega

theorem field_toNat (w : Word) (start len : Nat) : (w.extractLsb' start len).toNat = w.toNat / 2 ^ start % 2 ^ len := by
  rw [BitVec.extractLsb'_toNat, Nat.shiftRight_eq_div_pow]

theorem fieldX_val (w : Word) : (fieldX w).val = w.toNat / 256 % 16 := field_toNat w 8 4

theorem fieldY_val (w : Word) : (fieldY w).val = w.toNat / 16 % 16 := field_toNat w 4 4

theorem fieldN_toNat (w : Word) : (fieldN w).toNat = w.toNat % 16 := by
  rw [fieldN, field_toNat]; norm_num

theorem fieldNN_toNat (w : Word) : (fieldNN w).toNat = w.toNat % 256 := by
  rw [fieldNN, field_toNat]; norm_num

theorem fieldNNN_toNat (w : Word) : (fieldNNN w).toNat = w.toNat % 4096 := by
  rw [fieldNNN, field_toNat]; norm_num

theorem group_toNat (w : Word) : (w.extractLsb' 12 4).toNat = w.toNat / 4096 := by
  rw [field_toNat]
  have : w.toNat < 65536 := w.isLt
  omega

/-- The word of two bytes, as a number (30_encoding.md R81). -/
theorem wordOfBytes_toNat (hi lo : Byte) : (wordOfBytes hi lo).toNat = hi.toNat * 256 + lo.toNat := append_toNat hi lo

/-- Laying a word out in memory and fetching it back gives the word. -/
theorem decode_bytesOfWord (w : Word) (rest : List Byte) :
    decode (bytesOfWord w ++ rest) = (decodeWord w).map (fun i => (i, rest)) := by
  have h : wordOfBytes (w.extractLsb' 8 8) (w.extractLsb' 0 8) = w := by
    apply BitVec.eq_of_toNat_eq
    rw [wordOfBytes_toNat, field_toNat, field_toNat]
    have : w.toNat < 65536 := w.isLt
    omega
  simp [bytesOfWord, decode, h]

/-! ### The fields of a word in each format -/

@[simp] theorem group_formatA (op : BitVec 4) (nnn : BitVec 12) : (formatA op nnn).extractLsb' 12 4 = op := by
  apply BitVec.eq_of_toNat_eq; rw [group_toNat, formatA_toNat]; omega

@[simp] theorem fieldNNN_formatA (op : BitVec 4) (nnn : BitVec 12) : fieldNNN (formatA op nnn) = nnn := by
  apply BitVec.eq_of_toNat_eq; rw [fieldNNN_toNat, formatA_toNat]; omega

@[simp] theorem group_formatI (op : BitVec 4) (x : Reg) (nn : Byte) : (formatI op x nn).extractLsb' 12 4 = op := by
  apply BitVec.eq_of_toNat_eq; rw [group_toNat, formatI_toNat]; omega

@[simp] theorem fieldX_formatI (op : BitVec 4) (x : Reg) (nn : Byte) : fieldX (formatI op x nn) = x := by
  apply Fin.ext; rw [fieldX_val, formatI_toNat]; omega

@[simp] theorem fieldNN_formatI (op : BitVec 4) (x : Reg) (nn : Byte) : fieldNN (formatI op x nn) = nn := by
  apply BitVec.eq_of_toNat_eq; rw [fieldNN_toNat, formatI_toNat]; omega

@[simp] theorem group_formatR (op : BitVec 4) (x y : Reg) (m : BitVec 4) : (formatR op x y m).extractLsb' 12 4 = op := by
  apply BitVec.eq_of_toNat_eq; rw [group_toNat, formatR_toNat]; omega

@[simp] theorem fieldX_formatR (op : BitVec 4) (x y : Reg) (m : BitVec 4) : fieldX (formatR op x y m) = x := by
  apply Fin.ext; rw [fieldX_val, formatR_toNat]; omega

@[simp] theorem fieldY_formatR (op : BitVec 4) (x y : Reg) (m : BitVec 4) : fieldY (formatR op x y m) = y := by
  apply Fin.ext; rw [fieldY_val, formatR_toNat]; omega

@[simp] theorem fieldN_formatR (op : BitVec 4) (x y : Reg) (m : BitVec 4) : fieldN (formatR op x y m) = m := by
  apply BitVec.eq_of_toNat_eq; rw [fieldN_toNat, formatR_toNat]; omega

/-! ### The fixed bits of each format -/

theorem append_and {m n : Nat} (a c : BitVec m) (b d : BitVec n) : (a ++ b) &&& (c ++ d) = (a &&& c) ++ (b &&& d) := by
  ext k hk
  simp only [BitVec.getElem_and, BitVec.getElem_append]
  split <;> simp

theorem and_ones4 (a : BitVec 4) : a &&& 0xF#4 = a := BitVec.and_allOnes

theorem formatA_and (op : BitVec 4) (nnn : BitVec 12) : formatA op nnn &&& 0xF000#16 = formatA op 0 := by
  have h : formatA op nnn &&& 0xF000#16 = (op &&& 0xF#4) ++ (nnn &&& 0#12) := append_and op 0xF#4 nnn 0#12
  rw [h, and_ones4, BitVec.and_zero]; rfl

theorem formatI_and_op (op : BitVec 4) (x : Reg) (nn : Byte) : formatI op x nn &&& 0xF000#16 = formatI op 0 0 := by
  have h : formatI op x nn &&& 0xF000#16 = ((op ++ regField x) &&& (0xF#4 ++ 0#4)) ++ (nn &&& 0#8) :=
    append_and (op ++ regField x) (0xF#4 ++ 0#4) nn 0#8
  rw [h, append_and, and_ones4, BitVec.and_zero, BitVec.and_zero]; rfl

theorem formatI_and_minor (op : BitVec 4) (x : Reg) (nn : Byte) : formatI op x nn &&& 0xF0FF#16 = formatI op 0 nn := by
  have h : formatI op x nn &&& 0xF0FF#16 = ((op ++ regField x) &&& (0xF#4 ++ 0#4)) ++ (nn &&& 0xFF#8) :=
    append_and (op ++ regField x) (0xF#4 ++ 0#4) nn 0xFF#8
  have h8 : nn &&& 0xFF#8 = nn := BitVec.and_allOnes
  rw [h, append_and, and_ones4, BitVec.and_zero, h8]; rfl

theorem formatR_and_minor (op : BitVec 4) (x y : Reg) (m : BitVec 4) : formatR op x y m &&& 0xF00F#16 = formatR op 0 0 m := by
  have h : formatR op x y m &&& 0xF00F#16 = ((op ++ regField x) &&& (0xF#4 ++ 0#4)) ++ ((regField y ++ m) &&& (0#4 ++ 0xF#4)) :=
    append_and (op ++ regField x) (0xF#4 ++ 0#4) (regField y ++ m) (0#4 ++ 0xF#4)
  rw [h, append_and, append_and, and_ones4, and_ones4, BitVec.and_zero, BitVec.and_zero]; rfl

theorem formatR_and_op (op : BitVec 4) (x y : Reg) (m : BitVec 4) : formatR op x y m &&& 0xF000#16 = formatR op 0 0 0 := by
  have h : formatR op x y m &&& 0xF000#16 = ((op ++ regField x) &&& (0xF#4 ++ 0#4)) ++ ((regField y ++ m) &&& (0#4 ++ 0#4)) :=
    append_and (op ++ regField x) (0xF#4 ++ 0#4) (regField y ++ m) (0#4 ++ 0#4)
  rw [h, append_and, append_and, and_ones4, BitVec.and_zero, BitVec.and_zero, BitVec.and_zero]; rfl

end Sys2Proof
end

