-- ==== Sys2Proof/Laws/Exec.lean ====
section
/-! SUPPORT. What no instruction does: the parts of the state that only the host writes are outside the reach of `exec`. -/

namespace Sys2Proof.Machine

/-- An instruction leaves the configuration, the key flags, the host's list and the host's policy alone (10_state.md R32, R34). -/
theorem exec_keeps_host_fields {i : Instr} {s t : State} (h : exec i s = .next t) :
    t.cfg = s.cfg ∧ t.key = s.key ∧ t.pending = s.pending ∧ t.policy = s.policy := by
  cases i <;> simp only [exec, execCls, execRet, execJp, execCall, execSeImm, execSneImm, execSeReg, execSneReg, execLdImm,
    execAddImm, execLdReg, execOrReg, execAndReg, execXorReg, execAddReg, execSub, execShr, execSubn, execShl, execLdI, execJpV0,
    execRnd, execDrw, execSkp, execSknp, execLdVxDt, execLdDtVx, execLdStVx, execAddI, execLdVxK, execLdF, execLdB, execStoreRegs,
    execLoadRegs, guardBound_eq_next, guardSprite_eq_next, withKey_eq_next, pushReturn_eq_next, popReturn_eq_next,
    Host.Outcome.next.injEq, skipIf_eq, setResultFlag_eq] at h
  case loadRegs x =>
    obtain ⟨_, rfl⟩ := h
    obtain ⟨v, hv⟩ := loadBytes_eq s (effAddr s 0) (x.val + 1)
    simp [hv]
  case ret => obtain ⟨w, r, _, rfl⟩ := h; simp
  case addI x => split at h <;> subst h <;> simp
  all_goals first
    | (subst h; simp)
    | (obtain ⟨_, rfl⟩ := h; simp)

end Sys2Proof.Machine
end

