-- ==== Sys2Proof/Laws/PerInstr.lean ====
section
/-! SUPPORT. Laws about every instruction as syntax, one lemma per constructor. Family EncodingMatchesRow: the encoding of a
well-formed instruction has the fixed bits of its row of the opcode list (30_encoding.md R86). -/

namespace Sys2Proof.Laws.EncodingMatchesRow

def Statement (i : Instr) : Prop := i.WellFormed → i.row.accepts (encode i) = true

/-- A row accepts a word whose masked bits are the pattern. -/
theorem accepts_of {r : OpcodeRow} {w : Word} (h : w &&& r.mask = r.pattern) : r.accepts w = true := by
  simp [OpcodeRow.accepts, h]

theorem cls : Statement (.cls) := fun _ => accepts_of rfl
theorem ret : Statement (.ret) := fun _ => accepts_of rfl
theorem jp (n : BitVec 12) : Statement (.jp n) := fun _ => accepts_of (formatA_and _ n)
theorem call (n : BitVec 12) : Statement (.call n) := fun _ => accepts_of (formatA_and _ n)
theorem seImm (x : Reg) (nn : Byte) : Statement (.seImm x nn) := fun _ => accepts_of (formatI_and_op _ x nn)
theorem sneImm (x : Reg) (nn : Byte) : Statement (.sneImm x nn) := fun _ => accepts_of (formatI_and_op _ x nn)
theorem seReg (x : Reg) (y : Reg) : Statement (.seReg x y) := fun _ => accepts_of (formatR_and_minor _ x y _)
theorem sneReg (x : Reg) (y : Reg) : Statement (.sneReg x y) := fun _ => accepts_of (formatR_and_minor _ x y _)
theorem ldImm (x : Reg) (nn : Byte) : Statement (.ldImm x nn) := fun _ => accepts_of (formatI_and_op _ x nn)
theorem addImm (x : Reg) (nn : Byte) : Statement (.addImm x nn) := fun _ => accepts_of (formatI_and_op _ x nn)
theorem ldReg (x : Reg) (y : Reg) : Statement (.ldReg x y) := fun _ => accepts_of (formatR_and_minor _ x y _)
theorem orReg (x : Reg) (y : Reg) : Statement (.orReg x y) := fun _ => accepts_of (formatR_and_minor _ x y _)
theorem andReg (x : Reg) (y : Reg) : Statement (.andReg x y) := fun _ => accepts_of (formatR_and_minor _ x y _)
theorem xorReg (x : Reg) (y : Reg) : Statement (.xorReg x y) := fun _ => accepts_of (formatR_and_minor _ x y _)
theorem addReg (x : Reg) (y : Reg) : Statement (.addReg x y) := fun _ => accepts_of (formatR_and_minor _ x y _)
theorem sub (x : Reg) (y : Reg) : Statement (.sub x y) := fun _ => accepts_of (formatR_and_minor _ x y _)
theorem shr (x : Reg) (y : Reg) : Statement (.shr x y) := fun _ => accepts_of (formatR_and_minor _ x y _)
theorem subn (x : Reg) (y : Reg) : Statement (.subn x y) := fun _ => accepts_of (formatR_and_minor _ x y _)
theorem shl (x : Reg) (y : Reg) : Statement (.shl x y) := fun _ => accepts_of (formatR_and_minor _ x y _)
theorem ldI (n : BitVec 12) : Statement (.ldI n) := fun _ => accepts_of (formatA_and _ n)
theorem jpV0 (n : BitVec 12) : Statement (.jpV0 n) := fun _ => accepts_of (formatA_and _ n)
theorem rnd (x : Reg) (nn : Byte) : Statement (.rnd x nn) := fun _ => accepts_of (formatI_and_op _ x nn)
theorem drw (x : Reg) (y : Reg) (n : Nat) : Statement (.drw x y n) := fun _ => accepts_of (formatR_and_op _ x y _)
theorem skp (x : Reg) : Statement (.skp x) := fun _ => accepts_of (formatI_and_minor _ x _)
theorem sknp (x : Reg) : Statement (.sknp x) := fun _ => accepts_of (formatI_and_minor _ x _)
theorem ldVxDt (x : Reg) : Statement (.ldVxDt x) := fun _ => accepts_of (formatI_and_minor _ x _)
theorem ldDtVx (x : Reg) : Statement (.ldDtVx x) := fun _ => accepts_of (formatI_and_minor _ x _)
theorem ldStVx (x : Reg) : Statement (.ldStVx x) := fun _ => accepts_of (formatI_and_minor _ x _)
theorem addI (x : Reg) : Statement (.addI x) := fun _ => accepts_of (formatI_and_minor _ x _)
theorem ldVxK (x : Reg) : Statement (.ldVxK x) := fun _ => accepts_of (formatI_and_minor _ x _)
theorem ldF (x : Reg) : Statement (.ldF x) := fun _ => accepts_of (formatI_and_minor _ x _)
theorem ldB (x : Reg) : Statement (.ldB x) := fun _ => accepts_of (formatI_and_minor _ x _)
theorem storeRegs (x : Reg) : Statement (.storeRegs x) := fun _ => accepts_of (formatI_and_minor _ x _)
theorem loadRegs (x : Reg) : Statement (.loadRegs x) := fun _ => accepts_of (formatI_and_minor _ x _)

end Sys2Proof.Laws.EncodingMatchesRow
end

