-- ==== Sys2Proof/Tests/Slice0.lean ====
section
/-! SUPPORT. The model's own tests. Expected values are those of spec/95_test_vectors.md (the vector is named at each test) or
worked out by hand from the rule named; none is the model's own answer. Then a witness for every statement with hypotheses. -/

namespace Sys2Proof.Tests

open Sys2Proof.Machine

-- One theorem at a time: dozens of kernel evaluations at once would each take a thread with its own stack.
set_option Elab.async false

/-! ### Helpers -/

/-- The outcome is a next state that passes the check. -/
def nextIs (r : Result) (p : State → Bool) : Bool :=
  match r with
  | .next t => p t
  | .fault _ => false
  | .refused _ => false

/-- The outcome is this error. -/
def faultIs (r : Result) (f : Fault) : Bool :=
  match r with
  | .next _ => false
  | .fault g => g == f
  | .refused _ => false

/-- Registers given as a list of number and value, on a state. -/
def withRegs (s : State) : List (Reg × Byte) → State
  | [] => s
  | (r, b) :: l => withRegs (s.setReg r b) l

/-- One step of the word `w` placed at `pc` passes the check. -/
def runs (s : State) (w : Nat) (p : State → Bool) : Bool := nextIs (step (s.withFetchWord 16 w)) p

/-- One step of the word `w` placed at `pc` reports this error. -/
def fails (s : State) (w : Nat) (f : Fault) : Bool := faultIs (step (s.withFetchWord 16 w)) f

/-- The reset state with these toggles. -/
def quirky (c : Config) : State := State.resetWith c 0 [] .halt

def r0 : State := State.reset

/-! ### WellFormed: the ill-formed term of its one check -/

theorem test_wellFormed_refuses_sixteen_rows : (Instr.drw 0 0 16).wellFormed = false := by decide
theorem test_wellFormed_accepts_fifteen_rows : (Instr.drw 15 15 15).wellFormed = true := by decide

/-! ### Decode: one word of every row, written out from the pattern of R86; then rejections (95 section 2.7) -/

theorem test_decode_control :
    decodeWord 0x00EE = .ok .ret ∧ decodeWord 0x1FFE = .ok (.jp 0xFFE) ∧ decodeWord 0x2A01 = .ok (.call 0xA01) ∧
    decodeWord 0x3A7F = .ok (.seImm 10 0x7F) ∧ decodeWord 0x4A7F = .ok (.sneImm 10 0x7F) ∧ decodeWord 0x5120 = .ok (.seReg 1 2) ∧
    decodeWord 0x9AB0 = .ok (.sneReg 10 11) ∧ decodeWord 0xB2F0 = .ok (.jpV0 0x2F0) := by decide +kernel

theorem test_decode_alu :
    decodeWord 0x6FAB = .ok (.ldImm 15 0xAB) ∧ decodeWord 0x7F01 = .ok (.addImm 15 1) ∧ decodeWord 0x8F30 = .ok (.ldReg 15 3) ∧
    decodeWord 0x8AB1 = .ok (.orReg 10 11) ∧ decodeWord 0x8AB2 = .ok (.andReg 10 11) ∧ decodeWord 0x8AA3 = .ok (.xorReg 10 10) ∧
    decodeWord 0x8124 = .ok (.addReg 1 2) ∧ decodeWord 0x8125 = .ok (.sub 1 2) ∧ decodeWord 0x8126 = .ok (.shr 1 2) ∧
    decodeWord 0x8127 = .ok (.subn 1 2) ∧ decodeWord 0x812E = .ok (.shl 1 2) ∧ decodeWord 0xC53C = .ok (.rnd 5 0x3C) := by
  decide +kernel

theorem test_decode_memory_display_devices :
    decodeWord 0xAFFF = .ok (.ldI 0xFFF) ∧ decodeWord 0xF01E = .ok (.addI 0) ∧ decodeWord 0xF729 = .ok (.ldF 7) ∧
    decodeWord 0xF133 = .ok (.ldB 1) ∧ decodeWord 0xFF55 = .ok (.storeRegs 15) ∧ decodeWord 0xF165 = .ok (.loadRegs 1) ∧
    decodeWord 0x00E0 = .ok .cls ∧ decodeWord 0xD12F = .ok (.drw 1 2 15) ∧ decodeWord 0xE19E = .ok (.skp 1) ∧
    decodeWord 0xE1A1 = .ok (.sknp 1) ∧ decodeWord 0xFF07 = .ok (.ldVxDt 15) ∧ decodeWord 0xF315 = .ok (.ldDtVx 3) ∧
    decodeWord 0xF318 = .ok (.ldStVx 3) ∧ decodeWord 0xF30A = .ok (.ldVxK 3) := by decide +kernel

theorem test_decode_rejects :
    ([0x0000, 0x00E1, 0x00FE, 0x0123, 0x5121, 0x9ABF, 0x8128, 0x812D, 0x812F, 0xE19F, 0xE000, 0xF000, 0xF030, 0xF075, 0xF085,
      0xF1FF, 0xF20F].all fun n => decide (decodeWord (BitVec.ofNat 16 n) = .error (.invalidOpcode (BitVec.ofNat 16 n)))) = true := by
  decide +kernel

theorem test_decode_truncated : decode [0x60] = .error .truncated ∧ decode [] = .error .truncated := by decide

/-- R86: one row per instruction, 34 in all, and no word matches two rows. -/
theorem test_table_rows_do_not_overlap :
    opcodeTable.length = 34 ∧
    opcodeTable.Pairwise (fun r q => r.pattern &&& (r.mask &&& q.mask) ≠ q.pattern &&& (r.mask &&& q.mask)) := by decide +kernel

theorem test_table_word : decodeTableWord 16 0xD125 = some (.drw 1 2 5) ∧ decodeTableWord 16 0x8128 = none := by decide +kernel

/-! ### Control flow -/

/-- V1. -/
theorem test_ret : runs ((r0.setPc 0x400).setStack [0x30A, 0x204]) 0x00EE (fun t => t.pc == 0x30A && t.stack == [0x204]) = true := by
  decide +kernel
/-- V2. -/
theorem test_ret_underflow : fails r0 0x00EE .stackUnderflow = true := by decide +kernel
/-- V4. -/
theorem test_jp : runs r0 0x1FFF (fun t => t.pc == 0xFFF && faultIs (step t) (.outOfBounds 0xFFF)) = true := by decide +kernel
/-- V5. -/
theorem test_call_sixteenth : runs ((r0.setPc 0x250).setStack (List.replicate 15 0x202)) 0x2300
    (fun t => t.pc == 0x300 && t.stack == 0x252 :: List.replicate 15 0x202) = true := by decide +kernel
/-- V6. -/
theorem test_call_overflow : fails ((r0.setPc 0x250).setStack (List.replicate 16 0x202)) 0x2300 .stackOverflow = true := by
  decide +kernel
/-- V7, V7b. -/
theorem test_seImm : runs (r0.setReg 10 0x7F) 0x3A7F (fun t => t.pc == 0x204) = true ∧
    runs (r0.setReg 10 0x80) 0x3A7F (fun t => t.pc == 0x202) = true := by decide +kernel
/-- V8, V8b. -/
theorem test_sneImm : runs (r0.setReg 10 0x7F) 0x4A7F (fun t => t.pc == 0x202) = true ∧
    runs (r0.setReg 10 0x80) 0x4A7F (fun t => t.pc == 0x204) = true := by decide +kernel
/-- V9b and S5. -/
theorem test_seReg : runs (withRegs r0 [(3, 9), (4, 8)]) 0x5340 (fun t => t.pc == 0x202) = true ∧
    runs (withRegs r0 [(3, 0x2A), (4, 0x2A)]) 0x5340 (fun t => t.pc == 0x204) = true := by decide +kernel
/-- V10, V10b. -/
theorem test_sneReg : runs (withRegs r0 [(3, 9), (4, 8)]) 0x9340 (fun t => t.pc == 0x204) = true ∧
    runs (withRegs r0 [(3, 9)]) 0x9330 (fun t => t.pc == 0x202) = true := by decide +kernel
/-- V11. -/
theorem test_jpV0_not_reduced : runs (r0.setReg 0 0xFF) 0xBFFF (fun t => t.pc == 0x10FE && faultIs (step t) (.outOfBounds 0x10FE)) = true := by
  decide +kernel
/-- V11b, V11c. -/
theorem test_jpV0_register :
    runs (withRegs (quirky { Config.default with jumpVx := true }) [(0, 1), (2, 0x10)]) 0xB2F0 (fun t => t.pc == 0x300) = true ∧
    runs (withRegs r0 [(0, 1), (2, 0x10)]) 0xB2F0 (fun t => t.pc == 0x2F1) = true := by decide +kernel

/-! ### Register load, arithmetic, logic, shift, random -/

/-- V20 and S1. -/
theorem test_ldImm : runs r0 0x6FAB (fun t => t.reg 15 == 0xAB && t.pc == 0x202) = true := by decide +kernel
/-- S6. -/
theorem test_addImm : runs (withRegs r0 [(3, 0xFF), (15, 1)]) 0x7301 (fun t => t.reg 3 == 0 && t.reg 15 == 1) = true := by
  decide +kernel
/-- V22. -/
theorem test_ldReg : runs (r0.setReg 3 0x77) 0x8F30 (fun t => t.reg 15 == 0x77) = true := by decide +kernel
/-- V23. -/
theorem test_orReg : runs (withRegs r0 [(10, 0x55), (11, 0xAA), (15, 7)]) 0x8AB1 (fun t => t.reg 10 == 0xFF && t.reg 15 == 7) = true := by
  decide +kernel
/-- V24; R145's example. -/
theorem test_andReg : runs (withRegs r0 [(10, 0x55), (11, 0xAA), (15, 7)]) 0x8AB2 (fun t => t.reg 10 == 0 && t.reg 15 == 7) = true ∧
    runs (withRegs r0 [(1, 0x3C), (2, 0x0F)]) 0x8122 (fun t => t.reg 1 == 0x0C) = true := by decide +kernel
/-- R146's example. -/
theorem test_xorReg : runs (withRegs r0 [(1, 0xFF), (2, 0x0F), (15, 7)]) 0x8123 (fun t => t.reg 1 == 0xF0 && t.reg 15 == 7) = true := by
  decide +kernel
/-- V26d, V26b. -/
theorem test_addReg : runs (withRegs r0 [(1, 5), (15, 1)]) 0x81F4 (fun t => t.reg 1 == 6 && t.reg 15 == 0) = true ∧
    runs (withRegs r0 [(15, 0xC8), (1, 0x64)]) 0x8F14 (fun t => t.reg 15 == 1) = true := by decide +kernel
/-- V27b, V27. -/
theorem test_sub : runs (withRegs r0 [(1, 0), (2, 1), (15, 1)]) 0x8125 (fun t => t.reg 1 == 0xFF && t.reg 15 == 0) = true ∧
    runs (withRegs r0 [(1, 7), (2, 7)]) 0x8125 (fun t => t.reg 1 == 0 && t.reg 15 == 1) = true := by decide +kernel
/-- V28b, V28. -/
theorem test_subn : runs (withRegs r0 [(1, 0x0A), (2, 0x64)]) 0x8127 (fun t => t.reg 1 == 0x5A && t.reg 15 == 1 && t.reg 2 == 0x64) = true ∧
    runs (withRegs r0 [(1, 1), (15, 1)]) 0x8127 (fun t => t.reg 1 == 0xFF && t.reg 15 == 0) = true := by decide +kernel
/-- V29, V29b. -/
theorem test_shr : runs (withRegs r0 [(1, 0x81), (2, 2)]) 0x8126 (fun t => t.reg 1 == 0x40 && t.reg 15 == 1 && t.reg 2 == 2) = true ∧
    runs (withRegs (quirky { Config.default with shiftVy := true }) [(1, 0x81), (2, 2)]) 0x8126
      (fun t => t.reg 1 == 1 && t.reg 15 == 0 && t.reg 2 == 2) = true := by decide +kernel
/-- V30, V30b. -/
theorem test_shl : runs (withRegs r0 [(1, 0xC0), (2, 1)]) 0x812E (fun t => t.reg 1 == 0x80 && t.reg 15 == 1) = true ∧
    runs (withRegs (quirky { Config.default with shiftVy := true }) [(1, 0xC0), (2, 1)]) 0x812E
      (fun t => t.reg 1 == 2 && t.reg 15 == 0) = true := by decide +kernel
/-- V31b: under the mask 0 every draw gives 0. -/
theorem test_rnd_zero_mask : ∃ t, exec (.rnd 5 0) (r0.setReg 5 9) = .next t ∧ t.reg 5 = 0 ∧ t.draws = 1 :=
  ⟨_, rfl, by simp, rfl⟩

/-! ### Index register and memory -/

/-- V32. -/
theorem test_ldI : runs r0 0xAFFF (fun t => t.i == 0xFFF) = true := by decide +kernel
/-- V33, V33d. -/
theorem test_addI : runs ((r0.setReg 0 1).setI 0xFFF) 0xF01E (fun t => t.i == 0x1000 && t.reg 15 == 0) = true ∧
    runs (((quirky { Config.default with fx1eVf := true }).setReg 0 2).setI 0xFFFF) 0xF01E
      (fun t => t.i == 1 && t.reg 15 == 1) = true := by decide +kernel
/-- V34, S11. -/
theorem test_ldF : runs (r0.setReg 7 0xFF) 0xF729 (fun t => t.i == 0x9B) = true ∧
    runs (r0.setReg 4 0x0A) 0xF429 (fun t => t.i == 0x82) = true := by decide +kernel
/-- V35. -/
theorem test_ldB : runs ((r0.setReg 2 255).setI 0xFFD) 0xF233
    (fun t => t.readByte 0xFFD == 2 && t.readByte 0xFFE == 5 && t.readByte 0xFFF == 5 && t.i == 0xFFD) = true := by decide +kernel
/-- V35b. -/
theorem test_ldB_out_of_bounds : fails ((r0.setReg 2 255).setI 0xFFE) 0xF233 (.outOfBounds 0x1000) = true := by decide +kernel
/-- R164's example and V36c. -/
theorem test_storeRegs :
    runs ((withRegs r0 [(0, 1), (1, 2), (2, 3), (3, 4)]).setI 0x400) 0xF255
      (fun t => t.readByte 0x400 == 1 && t.readByte 0x401 == 2 && t.readByte 0x402 == 3 && t.readByte 0x403 == 0 && t.i == 0x400) = true ∧
    runs (((quirky { Config.default with ldstInc := true }).setReg 0 0xAB).setI 0xFFF) 0xF055
      (fun t => t.readByte 0xFFF == 0xAB && t.i == 0x1000) = true := by decide +kernel
/-- V36b. -/
theorem test_storeRegs_out_of_bounds : fails (r0.setI 0xFF1) 0xFF55 (.outOfBounds 0x1000) = true := by decide +kernel
/-- V37, V37c. -/
theorem test_loadRegs :
    runs ((r0.setI 0xFFE).storeBytes 0xFFE [0x11, 0x22]) 0xF165 (fun t => t.reg 0 == 0x11 && t.reg 1 == 0x22 && t.i == 0xFFE) = true ∧
    runs ((quirky { Config.default with ldstInc := true }).setI 0x50) 0xF365
      (fun t => t.reg 0 == 0xF0 && t.reg 1 == 0x90 && t.reg 2 == 0x90 && t.reg 3 == 0x90 && t.reg 4 == 0 && t.i == 0x54) = true := by
  decide +kernel
/-- V37b. -/
theorem test_loadRegs_out_of_bounds : fails (r0.setI 0xFFF) 0xF165 (.outOfBounds 0x1000) = true := by decide +kernel

/-! ### Display -/

/-- A framebuffer row whose set columns are these. -/
def columns (l : List Nat) : FrameRow := l.foldl (fun acc c => acc ||| (1#64 <<< c)) 0#64

/-- The rows listed hold these columns, every other row is empty. -/
def pixelsAre (t : State) (l : List (Nat × List Nat)) : Bool :=
  (List.range 32).all fun y => t.fb[(Fin.ofNat 32 y).val] == columns ((l.lookup y).getD [])

def pixelOn (s : State) (y : Fin 32) (x : Fin 64) : State := s.setFb (s.fb.setPixel y x true)

/-- S7. -/
theorem test_cls : runs (pixelOn (pixelOn (r0.setReg 15 1) 3 3) 31 63) 0x00E0 (fun t => pixelsAre t [] && t.reg 15 == 1) = true := by
  decide +kernel
/-- V42, default: the start wraps to (62, 8), the row wraps at the right edge, and (8, 1) collides. -/
theorem test_drw_wraps : runs (pixelOn (((withRegs r0 [(1, 126), (2, 40)]).setI 0x300).storeBytes 0x300 [0xFF]) 8 1) 0xD121
    (fun t => pixelsAre t [(8, [62, 63, 0, 2, 3, 4, 5])] && t.reg 15 == 1) = true := by decide +kernel
/-- V42 with `Q_CLIP`. -/
theorem test_drw_clips : runs (pixelOn (((withRegs (quirky { Config.default with clip := true }) [(1, 126), (2, 40)]).setI 0x300).storeBytes
    0x300 [0xFF]) 8 1) 0xD121 (fun t => pixelsAre t [(8, [62, 63, 1])] && t.reg 15 == 0) = true := by decide +kernel
/-- V43: glyph 0 of the default font. -/
theorem test_drw_glyph : runs (r0.setI 0x50) 0xD125 (fun t => pixelsAre t [(0, [0, 1, 2, 3]), (1, [0, 3]), (2, [0, 3]),
    (3, [0, 3]), (4, [0, 1, 2, 3])] && t.reg 15 == 0) = true := by decide +kernel
/-- V44, V45. -/
theorem test_drw_bounds : runs (pixelOn ((r0.setReg 15 1).setI 0xFFFF) 0 0) 0xD120 (fun t => pixelsAre t [(0, [0])] && t.reg 15 == 0) = true ∧
    fails ((r0.setReg 15 1).setI 0xFFF) 0xD122 (.outOfBounds 0x1000) = true := by decide +kernel

/-! ### Keypad and timers -/

/-- V51, V52. -/
theorem test_skp : runs ((r0.setReg 0 15).setKeyFlag 15 true) 0xE09E (fun t => t.pc == 0x204) = true ∧
    fails ((r0.setReg 0 16).setKeyFlag 0 true) 0xE09E (.outOfBounds 16) = true := by decide +kernel
/-- V53, V53b. -/
theorem test_sknp : runs (r0.setKeyFlag 0 true) 0xE0A1 (fun t => t.pc == 0x202) = true ∧
    runs r0 0xE0A1 (fun t => t.pc == 0x204) = true := by decide +kernel
/-- V54. -/
theorem test_ldVxDt : runs (r0.setDt 0x80) 0xFF07 (fun t => t.reg 15 == 0x80 && t.dt == 0x80) = true := by decide +kernel
/-- R193's example. -/
theorem test_ldDtVx : runs (r0.setReg 3 60) 0xF315 (fun t => t.dt == 60 && t.st == 0) = true := by decide +kernel
/-- R194's example, V56b. -/
theorem test_ldStVx : runs (r0.setReg 3 4) 0xF318 (fun t => t.st == 4 && t.tone && t.dt == 0) = true ∧
    runs (r0.setSt 9) 0xF018 (fun t => t.st == 0 && !t.tone) = true := by decide +kernel
/-- S3, first row. -/
theorem test_ldVxK : runs r0 0xF30A (fun t => t.pc == 0x200 && t.wait == .awaitKey 3) = true := by decide +kernel
/-- S3, its last three operations. -/
theorem test_key_capture : nextIs (perform (.setKey 7 true) (r0.setWait (.awaitKey 3))) (fun t =>
    t.wait == .keyCaptured 3 7 && nextIs (perform .cycle t) (fun u => u.reg 3 == 7 && u.pc == 0x202 && u.wait == .run)) = true := by
  decide +kernel
/-- V60 (a held key is no edge) and V67 (indices outside 0 to 15). -/
theorem test_set_key_no_edge :
    nextIs (perform (.setKey 4 true) ((r0.setKeyFlag 4 true).setWait (.awaitKey 3))) (fun t => t.wait == .awaitKey 3) = true ∧
    nextIs (perform (.setKey (-1) true) (r0.setWait (.awaitKey 3))) (fun t => t == r0.setWait (.awaitKey 3)) = true := by
  decide +kernel

/-! ### Host operations and the cycle -/

/-- S4, first and second columns. -/
theorem test_tick : nextIs (perform .tickTimers ((r0.setDt 5).setSt 0)) (fun t => t.dt == 4 && t.st == 0) = true := by decide +kernel
/-- S9, last row; nothing below 0x200. -/
theorem test_load : nextIs (perform (.load [1, 2, 3]) (r0.storeBytes 0x200 [0xAA, 0xAA, 0xAA, 0xAA])) (fun t =>
    t.readByte 0x1FF == 0 && t.readByte 0x200 == 1 && t.readByte 0x202 == 3 && t.readByte 0x203 == 0xAA) = true := by decide +kernel
/-- S9: 3585 bytes. -/
theorem test_load_too_large : faultIs (perform (.load (List.replicate 3585 0xBB)) r0) (.romTooLarge 3585) = true := by decide +kernel
/-- V64: reset ends the wait and clears the program. -/
theorem test_reset_op : nextIs (perform .reset ((r0.storeBytes 0x200 [0xF3, 0x0A]).setWait (.awaitKey 3))) (fun t => t == r0) = true := by
  decide +kernel
/-- V70 and V71: the last fetch address is 0xFFE. -/
theorem test_fetch_top : nextIs (step ((r0.storeBytes 0xFFE [0x6A, 0x11]).setPc 0xFFE)) (fun t => t.reg 10 == 0x11 && t.pc == 0x1000) = true ∧
    faultIs (step ((r0.storeBytes 0xFFE [0x6A, 0x11]).setPc 0xFFF)) (.outOfBounds 0xFFF) = true := by decide +kernel
/-- V73, first cycle; and the state the error leaves under a host that goes on (R208). -/
theorem test_empty_memory_is_invalid : faultIs (step r0) (.invalidOpcode 0) = true ∧
    nextIs (step { r0 with policy := .goOn }) (fun t => t == { r0.setPc 0x202 with policy := .goOn }) = true := by decide +kernel

/-- The table of R206: `Ok` is 0, and the five errors are 1 to 5, each reached by the operation the table names. -/
theorem test_status :
    [resultStatus (perform .tickTimers r0), resultStatus (perform (.load (List.replicate 3585 0)) r0),
      resultStatus (perform .cycle ((r0.storeBytes 0x200 [0x22, 0x00]).setStack (List.replicate 16 0))),
      resultStatus (perform .cycle (r0.storeBytes 0x200 [0x00, 0xEE])), resultStatus (perform .cycle r0),
      resultStatus (perform .cycle (r0.setPc 0xFFF))] = [some 0, some 1, some 2, some 3, some 4, some 5] := by decide +kernel

/-! ### Witnesses: a state and operands that meet the hypotheses of each statement -/

def goOn : State := { r0 with policy := .goOn }
def callHere : State := (r0.storeBytes 0x200 [0x22, 0x00])
def jumpHere : State := (r0.storeBytes 0x200 [0x12, 0x00])
def waitHere : State := (r0.storeBytes 0x200 [0xF3, 0x0A])

theorem test_witness_DecodeInvertsEncode : (Instr.drw 15 15 15).WellFormed := by decide
theorem test_witness_EncodeInvertsDecode : decodeWord 0xFFFF = .error (.invalidOpcode 0xFFFF) ∧ decodeWord 0xDFFF = .ok (.drw 15 15 15) := by
  decide +kernel
theorem test_witness_DecoderAgreesWithOpcodeList : decodeWord 0x8128 = .error (.invalidOpcode 0x8128) ∧ decodeWord 0x8127 = .ok (.subn 1 2) := by
  decide +kernel
/-- The step of a call: next with room on the stack, a fault under `halt` without, the advanced state under `goOn`. -/
theorem test_witness_StepRunsDecodedInstruction :
    ([callHere, callHere.setStack (List.replicate 16 0), { callHere.setStack (List.replicate 16 0) with policy := .goOn }].all fun s =>
      decide (s.nextOp = .cycle ∧ s.wait = .run ∧ s.pc.toNat ≤ 0xFFE ∧
        decode [s.readByte s.pc.toNat, s.readByte (s.pc.toNat + 1)] = .ok (.call 0x200, []))) = true ∧
    nextIs (exec (.call 0x200) callHere.popOp.advance) (fun _ => true) = true ∧
    faultIs (exec (.call 0x200) (callHere.setStack (List.replicate 16 0)).popOp.advance) .stackOverflow = true := by decide +kernel
theorem test_witness_FetchAboveTopFails :
    ((r0.setPc 0xFFF).nextOp = .cycle ∧ (r0.setPc 0xFFF).wait = .run ∧ 0xFFE < (r0.setPc 0xFFF).pc.toNat ∧ (r0.setPc 0xFFF).policy = .halt) ∧
    (goOn.setPc 0xFFF).policy = .goOn := by decide +kernel
theorem test_witness_InvalidWordIsReported : r0.nextOp = .cycle ∧ r0.wait = .run ∧ r0.pc.toNat ≤ 0xFFE ∧
    (∀ r ∈ opcodeTable, r.accepts r0.fetchWord = false) ∧ r0.policy = .halt ∧ goOn.policy = .goOn ∧ goOn.fetchWord = r0.fetchWord := by
  decide +kernel
theorem test_witness_ErrorsArePrecise :
    faultIs (perform r0.nextOp r0.popOp) (.invalidOpcode 0) = true ∧ r0.policy = .halt ∧
    faultIs (perform (goOn.setPc 0xFFF).nextOp (goOn.setPc 0xFFF).popOp) (.outOfBounds 0xFFF) = true ∧ goOn.policy = .goOn := by
  decide +kernel
/-- Each status at the edge of its range: what lies just inside succeeds (what lies just outside is `test_status`). -/
theorem test_witness_OperationStatus :
    [resultStatus (perform (.load (List.replicate 3584 0)) r0), resultStatus (perform .cycle (callHere.setStack (List.replicate 15 0))),
      resultStatus (perform .cycle ((r0.storeBytes 0x200 [0x00, 0xEE]).setStack [0x202])),
      resultStatus (perform .cycle ((r0.storeBytes 0xFFE [0x6A, 0x11]).setPc 0xFFE)),
      resultStatus (perform .cycle ((r0.setWait (.awaitKey 3)).setPc 0xFFF)),
      resultStatus (perform .cycle ((r0.storeBytes 0x200 [0xF0, 0x33]).setI 0xFFE))] =
      [some 0, some 0, some 0, some 0, some 0, some 5] := by decide +kernel
/-- Each disjunct at the edge of its range. -/
theorem test_witness_ErrorConditionsOfInstructions :
    faultIs (exec (.call 0) (r0.setStack (List.replicate 16 0))) .stackOverflow = true ∧ faultIs (exec .ret r0) .stackUnderflow = true ∧
    faultIs (exec (.sknp 0) (r0.setReg 0 16)) (.outOfBounds 16) = true ∧ faultIs (exec (.ldB 0) (r0.setI 0xFFE)) (.outOfBounds 0x1000) = true ∧
    faultIs (exec (.loadRegs 1) (r0.setI 0xFFF)) (.outOfBounds 0x1000) = true ∧
    faultIs (exec (.drw 0 0 2) (r0.setI 0xFFF)) (.outOfBounds 0x1000) = true := by decide +kernel
theorem test_witness_ContinuingHostNeverStops : goOn.policy = .goOn := by decide
theorem test_witness_SelfJumpRepeatsState : jumpHere.pending = [] ∧ jumpHere.wait = .run ∧ jumpHere.pc.toNat ≤ 0xFFE ∧
    decode [jumpHere.readByte jumpHere.pc.toNat, jumpHere.readByte (jumpHere.pc.toNat + 1)] = .ok (.jp 0x200, []) ∧
    (0x200 : BitVec 12).toNat = jumpHere.pc.toNat := by decide +kernel
theorem test_witness_CallPushesReturnAddress :
    (r0.setStack (List.replicate 15 0)).stack.length < 16 ∧ (r0.setStack (List.replicate 16 0)).stack.length = 16 := by decide
theorem test_witness_ReturnPopsAddress : (r0.setStack [0x202, 0x204]).stack = 0x202 :: [0x204] ∧ r0.stack = [] := by decide
theorem test_witness_SelfCallOverflowsOnSeventeenth : callHere.pending = [] ∧ callHere.policy = .halt ∧ callHere.wait = .run ∧
    callHere.stack = [] ∧ callHere.pc.toNat ≤ 0xFFE ∧
    decode [callHere.readByte callHere.pc.toNat, callHere.readByte (callHere.pc.toNat + 1)] = .ok (.call 0x200, []) ∧
    (0x200 : BitVec 12).toNat = callHere.pc.toNat := by decide +kernel
theorem test_witness_JumpWithOffset : r0.cfg.jumpVx = false ∧ (quirky { Config.default with jumpVx := true }).cfg.jumpVx = true ∧
    (15 : Reg).val = (0xFFF : BitVec 12).toNat / 0x100 := by decide
theorem test_witness_AddSetsCarry_SubtractSetsNotBorrow : (14 : Reg) ≠ 15 := by decide
theorem test_witness_ShiftsByOneBit : (5 : Byte) = (if (r0.setReg 1 5).cfg.shiftVy then (r0.setReg 1 5).reg 2 else (r0.setReg 1 5).reg 1) ∧
    (14 : Reg) ≠ 15 := by decide +kernel
theorem test_witness_OnlyFlagInstructionsWriteVF : ∃ t, exec (.addReg 1 1) (r0.setReg 1 0xFF) = .next t ∧ t.reg 15 ≠ (r0.setReg 1 0xFF).reg 15 :=
  ⟨_, rfl, by decide +kernel⟩
theorem test_witness_AddToIndex : r0.cfg.fx1eVf = false ∧ (quirky { Config.default with fx1eVf := true }).cfg.fx1eVf = true := by decide
theorem test_witness_StoreDecimalDigits : (r0.setI 0xFFD).i.toNat + 2 ≤ 0xFFF ∧ 0xFFF < (r0.setI 0xFFE).i.toNat + 2 := by decide
theorem test_witness_StoreRegisters_LoadRegisters :
    (r0.setI 0xFF0).i.toNat + (15 : Reg).val ≤ 0xFFF ∧ 0xFFF < (r0.setI 0xFF1).i.toNat + (15 : Reg).val ∧
    (3 : Reg).val ≤ (3 : Reg).val := by decide
theorem test_witness_LoadRestoresStoredRegisters : ∃ t, exec (.storeRegs 15) (r0.setI 0xFF0) = .next t ∧
    (t.setReg 3 9).i = (r0.setI 0xFF0).i ∧ ∀ a, (t.setReg 3 9).readByte a = t.readByte a :=
  ⟨_, rfl, by decide +kernel, fun _ => rfl⟩
theorem test_witness_StoreIsSeenByNextFetch : 1 ≤ (1 : Reg).val ∧ (r0.setI 0x200).i = (r0.setI 0x200).pc ∧
    (r0.setI 0x200).i.toNat + (1 : Reg).val ≤ 0xFFF := by decide +kernel
theorem test_witness_OnlyStoresChangeMemory : nextIs (perform .cycle (((r0.storeBytes 0x200 [0xF2, 0x55]).setI 0x300).setReg 2 7))
    (fun t => t.readByte 0x302 != (((r0.storeBytes 0x200 [0xF2, 0x55]).setI 0x300).setReg 2 7).readByte 0x302) = true := by decide +kernel
theorem test_witness_CanonicalMemoryIsUnique : Memory.wf Config.defaultFont [(0x050, 1), (0x200, 2), (0xFFF, 3)] := by decide +kernel
/-- The sprite in bounds and out of bounds by one, n = 0 at the top; a pixel under the sprite, set; one not under it. -/
theorem test_witness_DrawXorsSprite : (2 < 16) ∧ (r0.setI 0xFFE).i.toNat + (2 - 1) ≤ 0xFFF ∧ 0xFFF < (r0.setI 0xFFF).i.toNat + (2 - 1) := by
  decide
theorem test_witness_DrawXorsSprite_pixels :
    SpriteSets (r0.setI 0x50) 1 2 5 0 0 ∧ (pixelOn (r0.setI 0x50) 0 0).fb.pixel 0 0 = true ∧ ¬ SpriteSets (r0.setI 0x50) 1 2 5 9 0 := by
  refine ⟨⟨0, 0, ?_, ?_⟩, ?_, ?_⟩
  · refine ⟨by decide, by decide, by decide +kernel, by decide +kernel, ?_⟩
    intro h; exact absurd h (by decide)
  · decide +kernel
  · decide +kernel
  · rintro ⟨r, c, ⟨hr, _, hy, _⟩, _⟩
    have : (9 : Nat) = (((r0.setI 0x50).reg 2).toNat % 32 + r) % 32 := hy
    have h0 : ((r0.setI 0x50).reg 2).toNat = 0 := by decide +kernel
    omega
theorem test_witness_DrawTwiceRestores : ∃ t, 5 < 16 ∧ (1 : Reg) ≠ 15 ∧ (2 : Reg) ≠ 15 ∧ exec (.drw 1 2 5) (r0.setI 0x50) = .next t :=
  ⟨_, by decide, by decide, by decide, rfl⟩
theorem test_witness_SkipsOnKey : (15 : Key).val = ((r0.setReg 0 15).reg 0).toNat ∧ 15 < ((r0.setReg 0 16).reg 0).toNat := by decide +kernel
theorem test_witness_AwaitingCycleDoesNothing : (r0.setWait (.awaitKey 3)).wait = .awaitKey 3 := by decide
theorem test_witness_CapturedKeyCompletes : (r0.setWait (.keyCaptured 3 7)).wait = .keyCaptured 3 7 := by decide
theorem test_witness_KeyWaitLife :
    let s := waitHere.setPending (List.replicate (2 + 1) .cycle ++ [.setKey (7 : Key).val true, .cycle])
    s.wait = .run ∧ s.pc.toNat ≤ 0xFFE ∧ decode [s.readByte s.pc.toNat, s.readByte (s.pc.toNat + 1)] = .ok (.ldVxK 3, []) ∧
      s.keyFlag 7 = false ∧ s.pending = List.replicate (2 + 1) .cycle ++ [.setKey (7 : Key).val true, .cycle] := by decide +kernel
/-- An edge while awaited, a release, a held key, an edge while running; the indices next to the range. -/
theorem test_witness_SetKeyWritesFlag : (r0.setWait (.awaitKey 3)).wait = .awaitKey 3 ∧ r0.keyFlag 15 = false ∧
    (r0.setKeyFlag 0 true).keyFlag 0 = true ∧ (∀ x, r0.wait ≠ .awaitKey x) ∧ ((-1 : Int) < 0 ∨ 15 < (-1 : Int)) ∧
    ((16 : Int) < 0 ∨ 15 < (16 : Int)) := by decide +kernel
theorem test_witness_OnlyFX0AEntersWait : nextIs (step waitHere) (fun t => t.wait != .run) = true ∧ waitHere.wait = .run := by decide +kernel
theorem test_witness_TicksCountDownToZero : (r0.setPending (List.replicate 3 .tickTimers)).pending = List.replicate 3 .tickTimers := by decide
theorem test_witness_CyclesDoNotRunTimers :
    nextIs (perform .cycle ((r0.storeBytes 0x200 [0xF0, 0x15]).setReg 0 9)) (fun t => t.dt != r0.dt) = true ∧
    nextIs (perform .cycle ((r0.storeBytes 0x200 [0xF0, 0x18]).setReg 0 9)) (fun t => t.st != r0.st) = true := by decide +kernel
theorem test_witness_LoadWritesRom : (List.replicate 3584 (0 : Byte)).length ≤ 3584 ∧ 3584 < (List.replicate 3585 (0 : Byte)).length := by
  simp only [List.length_replicate]; omega
theorem test_witness_ResetState : r0.cfg = Config.default ∧ r0.draws = 0 ∧ r0.pending = [] ∧ r0.policy = .halt := by decide +kernel
theorem test_witness_FirstFetchIsStartOfRom : (List.replicate 3582 (0 : Byte)).length ≤ 3582 := by
  simp only [List.length_replicate]; omega
theorem test_witness_StepKeepsConfiguration_StepKeepsInvariant : (∃ t, step jumpHere = .next t) ∧ jumpHere.Inv := by
  refine ⟨⟨_, rfl⟩, ⟨by decide +kernel, by decide, ?_, by decide +kernel, ?_⟩⟩
  · intro w h; cases h
  · intro h; exact absurd rfl h
theorem test_witness_OnlyHostWritesKeys : nextIs (step (r0.setPending [.setKey 5 true])) (fun t => t.keyFlag 5 != r0.keyFlag 5) = true := by
  decide +kernel

end Sys2Proof.Tests
end

/-! PROOFS. The family 10_state.md: what an instruction, a cycle and a host operation can do to the state, each said once; the
invariant, the configuration, the keys, the timers and VF are then read off these inversion lemmas. -/

namespace Sys2Proof.Machine

theorem next_inj {s t : State} (h : (.next s : Result) = .next t) : t = s := by
  cases h; rfl

/-! ### What an instruction can do -/

/-- The instructions that use VF as a flag, and those that name register 15 as their destination (10_state.md R22, R23). -/
def MayWriteVF (cfg : Config) : Instr → Prop
  | .addReg _ _ | .sub _ _ | .subn _ _ | .shr _ _ | .shl _ _ | .drw _ _ _ => True
  | .addI _ => cfg.fx1eVf = true
  | .ldImm x _ | .addImm x _ | .rnd x _ => x = 15
  | .ldReg x _ | .orReg x _ | .andReg x _ | .xorReg x _ => x = 15
  | .ldVxDt x | .loadRegs x => x = 15
  | _ => False

/-- The states in which an executed instruction can leave the machine, by the parts it writes; the timers and the wait are each
written by one instruction only. -/
inductive Effect (i : Instr) (s : State) : State → Prop
  /-- Registers, `I`, pixels and the count of draws. -/
  | data {v : Vector Byte 16} {idx : Word} {fb : Frame} {n : Nat} (vf : v[15] = s.v[15] ∨ MayWriteVF s.cfg i) :
      Effect i s { s with v := v, i := idx, fb := fb, draws := n }
  | skip (c : Bool) : Effect i s (s.skipIf c)
  | jump {a : Word} (ha : a.toNat ≤ 0x10FE) : Effect i s (s.setPc a)
  | call {a : Word} (ha : a.toNat ≤ 0xFFF) (room : s.stack.length < 16) : Effect i s ((s.setStack (s.pc :: s.stack)).setPc a)
  | ret {w : Word} {rest : List Word} (top : s.stack = w :: rest) : Effect i s ((s.setStack rest).setPc w)
  | delay (x : Reg) (hi : i = .ldDtVx x) : Effect i s (s.setDt (s.reg x))
  | sound (x : Reg) (hi : i = .ldStVx x) : Effect i s (s.setSt (s.reg x))
  | await (x : Reg) (hi : i = .ldVxK x) : Effect i s ((s.setPc (s.pc - 2)).setWait (.awaitKey x))
  | store {a : Nat} {bs : List Byte} {idx : Word} (fits : a + bs.length ≤ 0x1000) : Effect i s ((s.storeBytes a bs).setI idx)

theorem setReg_v15 {s : State} {x : Reg} (b : Byte) {P : Prop} (hx : x = 15 → P) :
    (s.setReg x b).v[15] = s.v[15] ∨ P := by
  by_cases h : x = 15
  · exact .inr (hx h)
  · exact .inl ((State.setReg_reg s x b 15).trans (if_neg (Ne.symm h)))

theorem loadBytes_v15 (s : State) (base : Nat) (x : Reg) :
    (s.loadBytes base (x.val + 1)).v[15] = s.v[15] ∨ x = 15 := by
  by_cases h : x = 15
  · exact .inr h
  · have hx : ¬ 15 < x.val + 1 := fun hlt => h (Fin.ext (show x.val = 15 by omega))
    exact .inl ((loadBytes_reg s base (x.val + 1) (by omega) 15).trans (if_neg hx))

theorem addr16_toNat (nnn : BitVec 12) : (addr16 nnn).toNat = nnn.toNat := by
  simp [addr16]; omega

theorem addr16_le (nnn : BitVec 12) : (addr16 nnn).toNat ≤ 0xFFF := by
  rw [addr16_toNat]; omega

/-- The target of BNNN is at most 0xFFF + 0xFF (10_state.md R26). -/
theorem jumpTarget_le (nnn : BitVec 12) (b : Byte) : (addr16 nnn + zext16 b).toNat ≤ 0x10FE := by
  have hb : (zext16 b).toNat = b.toNat := by simp [zext16]; omega
  rw [BitVec.toNat_add, addr16_toNat, hb]
  omega

/-- Every executed instruction has one of the effects. -/
theorem exec_effect {i : Instr} {s t : State} (h : exec i s = .next t) : Effect i s t := by
  cases i with
  | cls | ldI nnn | ldF x => obtain rfl := next_inj h; exact .data (.inl rfl)
  | ret =>
    simp only [exec, execRet, popReturn_eq_next] at h
    obtain ⟨w, rest, top, ht⟩ := h
    obtain rfl := next_inj ht
    exact .ret top
  | jp nnn => obtain rfl := next_inj h; exact .jump (Nat.le_trans (addr16_le nnn) (by decide))
  | jpV0 nnn => obtain rfl := next_inj h; exact .jump (jumpTarget_le nnn _)
  | call nnn =>
    simp only [exec, execCall, pushReturn_eq_next] at h
    obtain ⟨room, ht⟩ := h
    obtain rfl := next_inj ht
    exact .call (addr16_le nnn) room
  | seImm x nn | sneImm x nn | seReg x y | sneReg x y => obtain rfl := next_inj h; exact .skip _
  | skp x | sknp x =>
    simp only [exec, execSkp, execSknp, withKey_eq_next] at h
    obtain rfl := next_inj h.2
    exact .skip _
  | ldImm x nn | addImm x nn | rnd x nn | ldReg x y | orReg x y | andReg x y | xorReg x y | ldVxDt x =>
    obtain rfl := next_inj h; exact .data (setReg_v15 _ id)
  | addReg x y | sub x y | shr x y | subn x y | shl x y => obtain rfl := next_inj h; exact .data (.inr trivial)
  | drw x y n => obtain ⟨_, ht⟩ := guardSprite_eq_next.1 h; obtain rfl := next_inj ht; exact .data (.inr trivial)
  | addI x =>
    obtain rfl := next_inj h
    split
    case isTrue hq => exact .data (.inr hq)
    case isFalse => exact .data (.inl rfl)
  | ldDtVx x => obtain rfl := next_inj h; exact .delay x rfl
  | ldStVx x => obtain rfl := next_inj h; exact .sound x rfl
  | ldVxK x => obtain rfl := next_inj h; exact .await x rfl
  | ldB x =>
    obtain ⟨hb, ht⟩ := guardBound_eq_next.1 h
    obtain rfl := next_inj ht
    exact .store (bs := digits (s.reg x)) (idx := s.i) (show s.i.toNat + 0 + 3 ≤ 0x1000 by unfold effAddr at hb; omega)
  | storeRegs x =>
    obtain ⟨hb, ht⟩ := guardBound_eq_next.1 h
    obtain rfl := next_inj ht
    exact .store (by simp only [effAddr, regsUpTo, List.length_map, List.length_range] at hb ⊢; omega)
  | loadRegs x =>
    obtain ⟨_, ht⟩ := guardBound_eq_next.1 h
    obtain rfl := next_inj ht
    have hv := loadBytes_v15 s (effAddr s 0) x
    obtain ⟨v, hl⟩ := loadBytes_eq s (effAddr s 0) (x.val + 1)
    rw [hl] at hv ⊢
    exact .data hv

/-- Settles O27: only the effect on the registers writes VF, and it says which instructions do. -/
theorem onlyFlagInstructionsWriteVF : Obligations.OnlyFlagInstructionsWriteVF := by
  intro i s t h hvf
  have may : MayWriteVF s.cfg i := by
    cases exec_effect h with
    | data vf => exact vf.resolve_left hvf
    | skip c => exact absurd (by rw [skipIf_eq]; rfl) hvf
    | jump | call | ret | delay | sound | await | store => exact absurd rfl hvf
  clear h
  cases i <;> simp_all [MayWriteVF]

/-! ### What a cycle can do -/

theorem cycle_eq_next {s t : State} :
    cycle s = .next t ↔
      (s.wait = .run ∧ s.canFetch ∧ ∃ i, decodeWord s.fetchWord = .ok i ∧ exec i s.advance = .next t) ∨
      ((∃ x, s.wait = .awaitKey x) ∧ t = s) ∨
      (∃ x k, s.wait = .keyCaptured x k ∧ t = completeKeyWait x k s) := by
  unfold cycle
  cases hw : s.wait with
  | run => simp [cycleRun_eq_next]
  | awaitKey x => simp [eq_comm]
  | keyCaptured x k => simp [eq_comm]

/-- A cycle reports an error only while it does not wait (40_operations.md R107, R108). -/
theorem wait_of_cycle_fault {s : State} {f : Fault} (h : cycle s = .fault f) : s.wait = .run := by
  unfold cycle at h
  split at h
  case h_1 hw => exact hw
  case h_2 => cases h
  case h_3 => cases h

/-- Settles O52: of the effects of an instruction only FX15's writes DT and only FX18's writes ST. -/
theorem cyclesDoNotRunTimers : Obligations.CyclesDoNotRunTimers := by
  intro s t h
  obtain ⟨_, _, i, hi, he⟩ | ⟨_, rfl⟩ | ⟨x, k, _, rfl⟩ := cycle_eq_next.1 h
  · cases exec_effect he with
    | delay x hx => subst hx; exact ⟨fun _ => ⟨x, hi, rfl⟩, absurd rfl⟩
    | sound x hx => subst hx; exact ⟨absurd rfl, fun _ => ⟨x, hi, rfl⟩⟩
    | skip c => rw [skipIf_eq]; exact ⟨absurd rfl, absurd rfl⟩
    | data | jump | call | ret | await | store => exact ⟨absurd rfl, absurd rfl⟩
  · exact ⟨absurd rfl, absurd rfl⟩
  · exact ⟨absurd rfl, absurd rfl⟩

/-! ### What the other host operations can do -/

theorem hostLoad_eq_next {bytes : List Byte} {s t : State} :
    hostLoad bytes s = .next t ↔ bytes.length ≤ 3584 ∧ t = s.storeBytes 0x200 bytes := by
  unfold hostLoad raise
  split
  · simp; omega
  · simp [eq_comm]; omega

@[simp] theorem waitAfterEdge_eq_run {w : Wait} {k : Key} : waitAfterEdge w k = .run ↔ w = .run := by
  cases w <;> simp [waitAfterEdge]

/-- `set_key` writes the one flag it names and neither begins a wait nor ends one, though it may note the key (R110, R216). -/
theorem hostSetKey_cases (k : Int) (p : Bool) (s : State) :
    hostSetKey k p s = s ∨
      ∃ (j : Key) (w : Wait), (j.val : Int) = k ∧ (w = .run ↔ s.wait = .run) ∧
        hostSetKey k p s = (s.setKeyFlag j p).setWait w := by
  unfold hostSetKey setKeyInRange
  split
  case isFalse => exact .inl rfl
  case isTrue hk =>
    have hj : ((Fin.ofNat 16 k.toNat).val : Int) = k := by simp only [Fin.val_ofNat]; omega
    split
    · exact .inr ⟨_, _, hj, waitAfterEdge_eq_run, rfl⟩
    · exact .inr ⟨_, s.wait, hj, Iff.rfl, rfl⟩

/-! ### What an error leaves -/

theorem afterError_cases {op : HostOp} {s : State} {f : Fault} (h : perform op s = .fault f) :
    afterError op s = s ∨ (s.wait = .run ∧ s.canFetch ∧ afterError op s = s.advance) := by
  cases op with
  | cycle =>
    by_cases hf : s.canFetch
    · exact .inr ⟨wait_of_cycle_fault h, hf, if_pos hf⟩
    · exact .inl (if_neg hf)
  | reset | load | tickTimers | setKey | framebufferSnapshot => exact .inl rfl

/-! ### Configuration and keys -/

theorem perform_cfg {op : HostOp} {s t : State} (h : perform op s = .next t) : t.cfg = s.cfg := by
  cases op with
  | reset | tickTimers | framebufferSnapshot => obtain rfl := next_inj h; rfl
  | load bytes => obtain ⟨_, rfl⟩ := hostLoad_eq_next.1 h; rfl
  | setKey k p =>
    obtain rfl := next_inj h
    obtain he | ⟨j, w, _, _, he⟩ := hostSetKey_cases k p s <;> simp [he]
  | cycle =>
    obtain ⟨_, _, i, _, he⟩ | ⟨_, rfl⟩ | ⟨x, k, _, rfl⟩ := cycle_eq_next.1 h
    · exact (exec_keeps_host_fields he).1
    · rfl
    · rfl

theorem perform_keyFlag {op : HostOp} {s t : State} {k : Key} (h : perform op s = .next t) (hk : t.keyFlag k ≠ s.keyFlag k) :
    op = .reset ∨ ∃ p, op = .setKey k.val p := by
  cases op with
  | reset => exact .inl rfl
  | tickTimers | framebufferSnapshot => obtain rfl := next_inj h; exact absurd rfl hk
  | load bytes => obtain ⟨_, rfl⟩ := hostLoad_eq_next.1 h; exact absurd rfl hk
  | setKey n p =>
    obtain rfl := next_inj h
    obtain he | ⟨j, w, rfl, _, he⟩ := hostSetKey_cases n p s
    · exact absurd (by rw [he]) hk
    · have hj : k = j := by
        by_contra hne
        exact hk (by rw [he, State.setWait_keyFlag, State.setKeyFlag_keyFlag, if_neg hne])
      exact .inr ⟨p, by rw [hj]⟩
  | cycle =>
    obtain ⟨_, _, i, _, he⟩ | ⟨_, rfl⟩ | ⟨x, j, _, rfl⟩ := cycle_eq_next.1 h
    · obtain ⟨_, hkey, _⟩ := exec_keeps_host_fields he
      exact absurd (by rw [State.keyFlag, hkey]; rfl) hk
    · exact absurd rfl hk
    · exact absurd rfl hk

/-- Settles O56: no operation writes the configuration, and no error does. -/
theorem stepKeepsConfiguration : Obligations.StepKeepsConfiguration := by
  intro s t h
  obtain hp | ⟨f, hf, _, rfl⟩ := step_eq_next.1 h
  · exact perform_cfg (s := s.popOp) hp
  · obtain he | ⟨_, _, he⟩ := afterError_cases hf <;> (rw [he]; rfl)

/-- Settles O57: the only operations that write a key flag are `reset` and `set_key` on that key. -/
theorem onlyHostWritesKeys : Obligations.OnlyHostWritesKeys := by
  intro s t k h hk
  obtain hp | ⟨f, hf, _, rfl⟩ := step_eq_next.1 h
  · exact perform_keyFlag hp hk
  · obtain he | ⟨_, _, he⟩ := afterError_cases hf <;> exact absurd (by rw [he]; rfl) hk

/-! ### The key wait -/

theorem decodeGroupF_ldVxK {w : Word} {x : Reg} (h : decodeGroupF w = some (.ldVxK x)) :
    (fieldNN w).toNat = 0x0A ∧ fieldX w = x := by
  unfold decodeGroupF at h
  split at h <;> simp_all

/-- Among the groups of R85 only group F holds FX0A: the others answer other instructions or none. -/
theorem decode?_ldVxK {w : Word} {x : Reg} (h : decode? w = some (.ldVxK x)) :
    (w.extractLsb' 12 4).toNat = 0xF ∧ decodeGroupF w = some (.ldVxK x) := by
  unfold decode? at h
  split at h
  case h_16 hg => exact ⟨hg, h⟩
  case h_1 => unfold decodeGroup0 at h; split_ifs at h <;> simp at h
  case h_6 | h_10 => split_ifs at h; simp at h
  case h_9 => unfold decodeGroup8 at h; split at h <;> simp at h
  case h_15 => unfold decodeGroupE at h; split at h <;> simp at h
  all_goals simp at h

/-- Only the words 0xFX0A decode to FX0A (30_encoding.md R85, R86). -/
theorem decodeWord_ldVxK {w : Word} {x : Reg} (h : decodeWord w = .ok (.ldVxK x)) : w.toNat = 0xF00A + 0x100 * x.val := by
  have hd : decode? w = some (.ldVxK x) := by
    unfold decodeWord at h
    split at h
    case h_1 i hi => rw [hi, Except.ok.inj h]
    case h_2 => cases h
  obtain ⟨hg, hf⟩ := decode?_ldVxK hd
  obtain ⟨hnn, rfl⟩ := decodeGroupF_ldVxK hf
  rw [group_toNat] at hg
  rw [fieldNN_toNat] at hnn
  rw [fieldX_val]
  omega

/-- An operation that begins a wait is a cycle that fetched an FX0A; `pc` is back at that FX0A. -/
theorem perform_enters_wait {op : HostOp} {s t : State} (h : perform op s = .next t) (hs : s.wait = .run) (ht : t.wait ≠ .run) :
    ∃ x, t.wait = .awaitKey x ∧ t.pc = s.pc ∧ s.fetchWord.toNat = 0xF00A + 0x100 * x.val := by
  cases op with
  | reset => obtain rfl := next_inj h; exact absurd rfl ht
  | tickTimers | framebufferSnapshot => obtain rfl := next_inj h; exact absurd hs ht
  | load bytes => obtain ⟨_, rfl⟩ := hostLoad_eq_next.1 h; exact absurd hs ht
  | setKey n p =>
    obtain rfl := next_inj h
    obtain he | ⟨j, w, _, hw, he⟩ := hostSetKey_cases n p s <;> rw [he] at ht
    · exact absurd hs ht
    · exact absurd (hw.2 hs) ht
  | cycle =>
    obtain ⟨_, _, i, hi, he⟩ | ⟨⟨x, hx⟩, _⟩ | ⟨x, k, hx, _⟩ := cycle_eq_next.1 h
    · cases exec_effect he with
      | await x hx => subst hx; exact ⟨x, rfl, BitVec.add_sub_cancel s.pc 2, decodeWord_ldVxK hi⟩
      | skip c => rw [skipIf_eq] at ht; exact absurd hs ht
      | data | jump | call | ret | delay | sound | store => exact absurd hs ht
    · cases hs.symm.trans hx
    · cases hs.symm.trans hx

/-- Settles O49: an error begins no wait, and no operation but the cycle of an FX0A does. -/
theorem onlyFX0AEntersWait : Obligations.OnlyFX0AEntersWait := by
  intro s t h hs ht
  obtain hp | ⟨f, hf, _, rfl⟩ := step_eq_next.1 h
  · exact perform_enters_wait (s := s.popOp) hp hs ht
  · obtain he | ⟨_, _, he⟩ := afterError_cases hf <;> (rw [he] at ht; exact absurd hs ht)

/-! ### Reset -/

theorem resetWith_readByte (cfg : Config) (draws : Nat) (pending : List HostOp) (policy : ErrorPolicy) (a : Nat) :
    (State.resetWith cfg draws pending policy).readByte a = unlistedByte cfg.font a := rfl

theorem unlistedByte_font (font : Vector Byte 80) {j : Nat} (h : j < 80) : unlistedByte font (0x050 + j) = font[j] := by
  rw [unlistedByte, dif_pos (by omega)]
  simp

theorem unlistedByte_outside (font : Vector Byte 80) {a : Nat} (h : a < 0x050 ∨ 0x0A0 ≤ a) : unlistedByte font a = 0 :=
  dif_neg (by omega)

/-- Settles O54: `reset` is the record of reset values, and its empty cell list reads as the font and zeros. -/
theorem resetState : Obligations.ResetState := by
  intro s
  refine ⟨hostReset s, rfl, rfl, fun j hj => unlistedByte_font s.cfg.font hj, fun a ha => unlistedByte_outside s.cfg.font ha,
    fun r => ?_, rfl, rfl, rfl, rfl, rfl, clear_pixel, fun k => ?_, rfl, rfl, rfl, rfl, rfl, ?_⟩
  · simp [hostReset, State.resetWith, State.reg]
  · simp [hostReset, State.resetWith, State.keyFlag]
  · intro hcfg hdraws hpending hpolicy
    rw [hostReset, hcfg, hdraws, hpending, hpolicy, State.reset]

/-- Settles O58: the reset memory lists no cell, the stack is empty and nothing waits. -/
theorem resetHasInvariant : Obligations.ResetHasInvariant := by
  intro cfg draws pending policy
  exact
    { memory := Memory.nil_wf cfg.font
      depth := Nat.zero_le 16
      returns := fun w hw => absurd hw List.not_mem_nil
      counter := (by decide : (0x0200#16).toNat ≤ 0x10FE)
      waiting := absurd rfl }

/-! ### The invariant -/

/-- `Inv` speaks of five fields only. -/
theorem State.Inv.congr {s t : State} (h : s.Inv) (hmem : t.mem = s.mem) (hcfg : t.cfg = s.cfg) (hstack : t.stack = s.stack)
    (hpc : t.pc = s.pc) (hwait : t.wait ≠ .run → s.wait ≠ .run) : t.Inv := by
  obtain ⟨memory, depth, returns, counter, waiting⟩ := h
  rw [← hmem, ← hcfg] at memory
  rw [← hstack] at depth returns
  rw [← hpc] at counter waiting
  exact ⟨memory, depth, returns, counter, fun hw => waiting (hwait hw)⟩

theorem State.Inv.storeBytes {s : State} (h : s.Inv) {a : Nat} {bs : List Byte} (fits : a + bs.length ≤ 0x1000) :
    (s.storeBytes a bs).Inv :=
  { h with memory := Memory.writeAll_wf s.cfg.font fits h.memory }

theorem State.Inv.setPc {s : State} (h : s.Inv) {w : Word} (hw : w.toNat ≤ 0x10FE) (run : s.wait = .run) : (s.setPc w).Inv :=
  { h with counter := hw, waiting := absurd run }

/-- What an instruction rule sees: the invariant, no wait, and `pc` just past the instruction that was fetched (R105). -/
structure Fetched (s : State) : Prop where
  inv : s.Inv
  run : s.wait = .run
  pc_ge : 2 ≤ s.pc.toNat
  pc_le : s.pc.toNat ≤ 0x1000

theorem State.Inv.fetched {s : State} (h : s.Inv) (run : s.wait = .run) (hf : s.canFetch) : Fetched s.advance := by
  have hpc := advance_pc_toNat hf
  have hf' : s.pc.toNat ≤ 0xFFE := hf
  exact ⟨h.setPc (by rw [← State.advance_pc]; omega) run, run, by omega, by omega⟩

theorem Effect.inv {i : Instr} {s t : State} (he : Effect i s t) (h : Fetched s) : t.Inv := by
  obtain ⟨inv, run, pc_ge, pc_le⟩ := h
  cases he with
  | data | delay | sound => exact inv.congr rfl rfl rfl rfl id
  | skip c =>
    rw [skipIf_eq]
    refine inv.setPc ?_ run
    split
    · rw [BitVec.toNat_add]; have : (2 : Word).toNat = 2 := rfl; omega
    · exact inv.counter
  | jump ha => exact inv.setPc ha run
  | call ha room =>
    refine { inv with depth := room, returns := ?_, counter := Nat.le_trans ha (by decide), waiting := absurd run }
    exact List.forall_mem_cons.2 ⟨⟨pc_ge, pc_le⟩, inv.returns⟩
  | ret top =>
    have depth := inv.depth
    have returns := inv.returns
    rw [top] at depth returns
    obtain ⟨hw, hrest⟩ := List.forall_mem_cons.1 returns
    exact { inv with
      depth := Nat.le_of_succ_le depth, returns := hrest, counter := Nat.le_trans hw.2 (by decide), waiting := absurd run }
  | await x =>
    have hpc : (s.pc - 2).toNat ≤ 0xFFE := by bv_omega
    exact { inv with counter := Nat.le_trans hpc (by decide), waiting := fun _ => hpc }
  | store fits => exact (inv.storeBytes fits).congr rfl rfl rfl rfl id

theorem completeKeyWait_inv {s : State} (h : s.Inv) {x : Reg} {k : Key} (hw : s.wait = .keyCaptured x k) :
    (completeKeyWait x k s).Inv := by
  have hf : s.canFetch := h.waiting (by simp [hw])
  have hpc := advance_pc_toNat hf
  refine { h with counter := ?_, waiting := absurd rfl }
  exact Nat.le_trans (Nat.le_of_eq hpc) (by have : s.pc.toNat ≤ 0xFFE := hf; omega)

theorem perform_inv {op : HostOp} {s t : State} (h : s.Inv) (hp : perform op s = .next t) : t.Inv := by
  cases op with
  | reset => obtain rfl := next_inj hp; exact resetHasInvariant _ _ _ _
  | tickTimers | framebufferSnapshot => obtain rfl := next_inj hp; exact h.congr rfl rfl rfl rfl id
  | load bytes =>
    obtain ⟨hlen, rfl⟩ := hostLoad_eq_next.1 hp
    exact h.storeBytes (by omega)
  | setKey n p =>
    obtain rfl := next_inj hp
    obtain he | ⟨j, w, _, hw, he⟩ := hostSetKey_cases n p s <;> rw [he]
    · exact h
    · exact h.congr rfl rfl rfl rfl (mt hw.2)
  | cycle =>
    obtain ⟨run, hf, i, _, he⟩ | ⟨_, rfl⟩ | ⟨x, k, hw, rfl⟩ := cycle_eq_next.1 hp
    · exact (exec_effect he).inv (h.fetched run hf)
    · exact h
    · exact completeKeyWait_inv h hw

/-- Settles O59: every operation keeps the invariant, and so does the state an error leaves. -/
theorem stepKeepsInvariant : Obligations.StepKeepsInvariant := by
  intro s t h hstep
  have hpop : s.popOp.Inv := h.congr rfl rfl rfl rfl id
  obtain hp | ⟨f, hf, _, rfl⟩ := step_eq_next.1 hstep
  · exact perform_inv hpop hp
  · obtain he | ⟨run, hfetch, he⟩ := afterError_cases hf <;> rw [he]
    · exact hpop
    · exact (hpop.fetched run hfetch).inv

/-! ### The canonical memory -/

theorem Memory.find_eq_some {m : List Host.Cell} (hm : (m.map Prod.fst).Pairwise (· < ·)) {a : Nat} {b : Byte} :
    Memory.find m a = some b ↔ (a, b) ∈ m := by
  induction m with
  | nil => simp [Memory.find]
  | cons c m ih =>
    obtain ⟨k, c⟩ := c
    obtain ⟨hk, hm⟩ := List.pairwise_cons.1 hm
    simp only [Memory.find, List.mem_cons, Prod.mk.injEq]
    split
    case isTrue h =>
      subst h
      have hnot : (k, b) ∉ m := fun hmem => Nat.lt_irrefl k (hk k (List.mem_map_of_mem hmem))
      simp [hnot, eq_comm]
    case isFalse h => simp [ih hm, Ne.symm h]

/-- The cells of a canonical memory are what it reads as wherever that differs from what reset leaves. -/
theorem Memory.mem_iff_read {font : Vector Byte 80} {m : List Host.Cell} (hm : Memory.wf font m) (c : Host.Cell) :
    c ∈ m ↔ Memory.read font m c.1 = c.2 ∧ c.2 ≠ unlistedByte font c.1 := by
  obtain ⟨rising, listed⟩ := hm
  obtain ⟨a, b⟩ := c
  rw [← Memory.find_eq_some rising, Memory.read]
  constructor
  · intro h
    exact ⟨by rw [h]; rfl, (listed _ ((Memory.find_eq_some rising).1 h)).2⟩
  · rintro ⟨hread, hne⟩
    cases hfind : Memory.find m a with
    | none => rw [hfind] at hread; exact absurd hread.symm hne
    | some b' => rw [hfind] at hread; exact congrArg some hread

/-- Settles O37: canonical memories that read alike have the same cells, and rising lists with the same cells are equal. -/
theorem canonicalMemoryIsUnique : Obligations.CanonicalMemoryIsUnique := by
  intro font m m' hm hm' hread
  have hcells : ∀ c, c ∈ m ↔ c ∈ m' := fun c => by
    rw [Memory.mem_iff_read hm, Memory.mem_iff_read hm', hread]
  have rising : m.Pairwise (fun c d => c.1 < d.1) := List.pairwise_map.1 hm.1
  have rising' : m'.Pairwise (fun c d => c.1 < d.1) := List.pairwise_map.1 hm'.1
  exact List.Pairwise.eq_of_mem_iff rising rising' hcells

end Sys2Proof.Machine

/-! PROOFS. The family 20_memory.md: when an instruction reports an error, which byte a cycle can change, and what FX55 leaves in
memory for the next fetch. -/

namespace Sys2Proof.Machine

/-! ### When an instruction reports an error -/

theorem next_ne_fault {s : State} {f : Fault} : (.next s : Result) ≠ .fault f := nofun

theorem pushReturn_eq_fault {w : Word} {s : State} {k : State → Result} {f : Fault} :
    pushReturn w s k = .fault f ↔
      (16 ≤ s.stack.length ∧ f = .stackOverflow) ∨ (s.stack.length < 16 ∧ k (s.setStack (w :: s.stack)) = .fault f) := by
  unfold pushReturn raise
  split
  case isTrue h => simp [h]
  case isFalse h => simp [h, Nat.le_of_not_lt h, eq_comm]

theorem popReturn_eq_fault {s : State} {k : Word → State → Result} {f : Fault} :
    popReturn s k = .fault f ↔
      (s.stack = [] ∧ f = .stackUnderflow) ∨ ∃ w rest, s.stack = w :: rest ∧ k w (s.setStack rest) = .fault f := by
  unfold popReturn raise
  split
  case h_1 h => simp [h, eq_comm]
  case h_2 h => simp [h]

theorem guardSprite_eq_fault {s : State} {n : Nat} {k : Result} {f : Fault} :
    guardSprite s n k = .fault f ↔
      (∃ m, n = m + 1 ∧ 0xFFF < effAddr s m ∧ f = .outOfBounds (effAddr s m)) ∨
        ((n = 0 ∨ effAddr s (n - 1) ≤ 0xFFF) ∧ k = .fault f) := by
  cases n with
  | zero => simp [guardSprite]
  | succ m => simp [guardSprite, guardBound_eq_fault]

/-- A bounds test before a normal answer is the only source of an error (20_memory.md R54). -/
theorem guardBound_next_eq_fault {limit last : Nat} {t : State} {f : Fault} :
    guardBound limit last (.next t) = .fault f ↔ limit < last ∧ f = .outOfBounds last := by
  simp [guardBound_eq_fault]

theorem withKey_next_eq_fault {b : Byte} {k : Key → State} {f : Fault} :
    withKey b (fun j => .next (k j)) = .fault f ↔ 15 < b.toNat ∧ f = .outOfBounds b.toNat :=
  guardBound_next_eq_fault

/-- Settles O10: every instruction but CALL, RET, the key skips and the four that access memory always answers a next state. -/
theorem errorConditionsOfInstructions : Obligations.ErrorConditionsOfInstructions := by
  intro i s f
  cases i with
  | call nnn => simp [exec, execCall, pushReturn_eq_fault]
  | ret => simp [exec, execRet, popReturn_eq_fault]
  | skp x => simp [exec, execSkp, withKey_next_eq_fault]
  | sknp x => simp [exec, execSknp, withKey_next_eq_fault]
  | ldB x => simp [exec, execLdB, guardBound_next_eq_fault, effAddr]
  | storeRegs x => simp [exec, execStoreRegs, guardBound_next_eq_fault, effAddr]
  | loadRegs x => simp [exec, execLoadRegs, guardBound_next_eq_fault, effAddr]
  | drw x y n => simp [exec, execDrw, guardSprite_eq_fault, effAddr]
  | cls | jp _ | seImm _ _ | sneImm _ _ | seReg _ _ | sneReg _ _ | ldImm _ _ | addImm _ _ | ldReg _ _ | orReg _ _ | andReg _ _
  | xorReg _ _ | addReg _ _ | sub _ _ | shr _ _ | subn _ _ | shl _ _ | ldI _ | jpV0 _ | rnd _ _ | ldVxDt _ | ldDtVx _ | ldStVx _
  | addI _ | ldVxK _ | ldF _ => exact iff_of_false next_ne_fault (by simp)

/-! ### Which byte a cycle can change -/

theorem readByte_of_storeBytes_ne {s : State} {base a : Nat} {bs : List Byte}
    (h : (s.storeBytes base bs).readByte a ≠ s.readByte a) : base ≤ a ∧ a < base + bs.length := by
  by_contra hout
  exact h (by rw [State.storeBytes_readByte, if_neg hout])

theorem regsUpTo_length (s : State) (x : Reg) : (regsUpTo s x).length = x.val + 1 := by simp [regsUpTo]

/-- An instruction that changes a byte of memory is FX33 or FX55, and the byte is in the range it stores to (20_memory.md R60). -/
theorem exec_writes_byte {i : Instr} {s t : State} {a : Nat} (h : exec i s = .next t) (ha : t.readByte a ≠ s.readByte a) :
    ∃ x, (i = .ldB x ∧ effAddr s 0 ≤ a ∧ a ≤ effAddr s 2) ∨ (i = .storeRegs x ∧ effAddr s 0 ≤ a ∧ a ≤ effAddr s x.val) := by
  cases i with
  | ldB x =>
    obtain ⟨_, ht⟩ := guardBound_eq_next.1 h
    obtain rfl := next_inj ht
    obtain ⟨hlo, hhi⟩ := readByte_of_storeBytes_ne ha
    exact ⟨x, .inl ⟨rfl, hlo, Nat.le_of_lt_succ hhi⟩⟩
  | storeRegs x =>
    obtain ⟨_, ht⟩ := guardBound_eq_next.1 h
    obtain rfl := next_inj ht
    obtain ⟨hlo, hhi⟩ := readByte_of_storeBytes_ne ha
    rw [regsUpTo_length] at hhi
    exact ⟨x, .inr ⟨rfl, hlo, Nat.le_of_lt_succ hhi⟩⟩
  | loadRegs x =>
    obtain ⟨_, ht⟩ := guardBound_eq_next.1 h
    obtain rfl := next_inj ht
    obtain ⟨v, hv⟩ := loadBytes_eq s (effAddr s 0) (x.val + 1)
    rw [hv] at ha
    exact absurd rfl ha
  | drw x y n =>
    obtain ⟨_, ht⟩ := guardSprite_eq_next.1 h
    obtain rfl := next_inj ht
    exact absurd rfl ha
  | call nnn =>
    simp only [exec, execCall, pushReturn_eq_next] at h
    obtain ⟨_, ht⟩ := h
    obtain rfl := next_inj ht
    exact absurd rfl ha
  | ret =>
    simp only [exec, execRet, popReturn_eq_next] at h
    obtain ⟨_, _, _, ht⟩ := h
    obtain rfl := next_inj ht
    exact absurd rfl ha
  | skp x | sknp x =>
    simp only [exec, execSkp, execSknp, withKey_eq_next] at h
    obtain rfl := next_inj h.2
    rw [skipIf_eq] at ha
    exact absurd rfl ha
  | seImm _ _ | sneImm _ _ | seReg _ _ | sneReg _ _ =>
    obtain rfl := next_inj h
    rw [skipIf_eq] at ha
    exact absurd rfl ha
  | addI x =>
    obtain rfl := next_inj h
    split at ha <;> exact absurd rfl ha
  | cls | jp _ | ldImm _ _ | addImm _ _ | ldReg _ _ | orReg _ _ | andReg _ _ | xorReg _ _ | addReg _ _ | sub _ _ | shr _ _
  | subn _ _ | shl _ _ | ldI _ | jpV0 _ | rnd _ _ | ldVxDt _ | ldDtVx _ | ldStVx _ | ldVxK _ | ldF _ =>
    obtain rfl := next_inj h
    exact absurd rfl ha

/-- Settles O36: a waiting machine's cycle changes no byte, and the pre-advance moves only `pc`. -/
theorem onlyStoresChangeMemory : Obligations.OnlyStoresChangeMemory := by
  intro s t a h ha
  obtain ⟨run, _, i, hi, he⟩ | ⟨_, rfl⟩ | ⟨x, k, _, rfl⟩ := cycle_eq_next.1 h
  · obtain ⟨x, ⟨rfl, hlo, hhi⟩ | ⟨rfl, hlo, hhi⟩⟩ := exec_writes_byte he ha
    · exact ⟨run, x, .inl ⟨hi, hlo, hhi⟩⟩
    · exact ⟨run, x, .inr ⟨hi, hlo, hhi⟩⟩
  · exact absurd rfl ha
  · exact absurd rfl ha

/-! ### What FX55 leaves in memory -/

theorem regsUpTo_getD (s : State) {x r : Reg} (h : r.val ≤ x.val) : (regsUpTo s x).getD r.val 0#8 = s.reg r := by
  have hr : r.val < x.val + 1 := Nat.lt_succ_of_le h
  simp [regsUpTo, hr]

theorem exec_storeRegs {x : Reg} {s : State} (h : effAddr s x.val ≤ 0xFFF) :
    exec (.storeRegs x) s = .next ((s.storeBytes (effAddr s 0) (regsUpTo s x)).setI (indexAfter s x)) :=
  guardBound_of_le h

/-- FX55 stores register `r` at `I + r` (43_index_memory.md R164). -/
theorem storeRegs_readByte (s : State) {x r : Reg} (h : r.val ≤ x.val) :
    (s.storeBytes (effAddr s 0) (regsUpTo s x)).readByte (effAddr s r.val) = s.reg r := by
  have inside : effAddr s 0 ≤ effAddr s r.val ∧ effAddr s r.val < effAddr s 0 + (x.val + 1) := by
    unfold effAddr; omega
  have offset : effAddr s r.val - effAddr s 0 = r.val := Nat.add_sub_cancel_left s.i.toNat r.val
  rw [State.storeBytes_readByte, regsUpTo_length, if_pos inside, offset, regsUpTo_getD s h]

/-- Settles O35: with `I = pc` the two bytes of the next fetch are V0 and V1 (20_memory.md R65). -/
theorem storeIsSeenByNextFetch : Obligations.StoreIsSeenByNextFetch := by
  intro x s hx hpc hbound
  refine ⟨_, exec_storeRegs hbound, rfl, ?_⟩
  have hi : s.pc.toNat = s.i.toNat := congrArg BitVec.toNat hpc.symm
  have hi0 := storeRegs_readByte s (x := x) (r := 0) (Nat.zero_le x.val)
  have hi1 := storeRegs_readByte s (x := x) (r := 1) hx
  rw [State.fetchWord, wordOfBytes_toNat]
  simp only [State.setI_pc, State.storeBytes_pc, State.setI_readByte, hi]
  exact congrArg₂ (fun hi lo : Byte => hi.toNat * 256 + lo.toNat) hi0 hi1

end Sys2Proof.Machine

/-! PROOFS. The family 30_encoding.md: the decoder undoes the encoder, every word that decodes is an encoding, and the nibble
algorithm of R85 answers exactly the row of R86 that accepts the word. What the machine does with a word no row accepts, and that
every word a row accepts has a meaning, follow. -/

namespace Sys2Proof

/-! ### From the encoder to the decoder -/

theorem decodeWord_eq_ok {w : Word} {i : Instr} : decodeWord w = .ok i ↔ decode? w = some i := by
  unfold decodeWord
  split
  case h_1 hd => simp [hd]
  case h_2 hd => simp [hd]

theorem decodeWord_eq_error {w : Word} {e : DecodeError} :
    decodeWord w = .error e ↔ decode? w = none ∧ e = .invalidOpcode w := by
  unfold decodeWord
  split
  case h_1 hd => simp [hd]
  case h_2 hd => simp [hd, eq_comm]

theorem decode?_encode {i : Instr} (h : i.WellFormed) : decode? (encode i) = some i := by
  cases i with
  | cls | ret => rfl
  | drw x y n =>
    have hn : n < 16 := of_decide_eq_true h
    simp [encode, decode?, Nat.mod_eq_of_lt hn]
  | jp _ | call _ | ldI _ | jpV0 _ | seImm _ _ | sneImm _ _ | ldImm _ _ | addImm _ _ | rnd _ _ | seReg _ _ | sneReg _ _ =>
    simp [encode, decode?]
  | ldReg _ _ | orReg _ _ | andReg _ _ | xorReg _ _ | addReg _ _ | sub _ _ | shr _ _ | subn _ _ | shl _ _ =>
    simp [encode, decode?, decodeGroup8]
  | skp _ | sknp _ => simp [encode, decode?, decodeGroupE]
  | ldVxDt _ | ldVxK _ | ldDtVx _ | ldStVx _ | addI _ | ldF _ | ldB _ | storeRegs _ | loadRegs _ =>
    simp [encode, decode?, decodeGroupF]

/-! ### From the decoder to the encoder -/

theorem formatA_fields {w : Word} {op : BitVec 4} (hop : (w.extractLsb' 12 4).toNat = op.toNat) :
    formatA op (fieldNNN w) = w := by
  apply BitVec.eq_of_toNat_eq
  rw [group_toNat] at hop
  rw [formatA_toNat, fieldNNN_toNat]
  omega

theorem formatI_fields {w : Word} {op : BitVec 4} {nn : Byte} (hop : (w.extractLsb' 12 4).toNat = op.toNat)
    (hnn : (fieldNN w).toNat = nn.toNat) : formatI op (fieldX w) nn = w := by
  apply BitVec.eq_of_toNat_eq
  rw [group_toNat] at hop
  rw [fieldNN_toNat] at hnn
  rw [formatI_toNat, fieldX_val]
  omega

theorem formatR_fields {w : Word} {op m : BitVec 4} (hop : (w.extractLsb' 12 4).toNat = op.toNat)
    (hm : (fieldN w).toNat = m.toNat) : formatR op (fieldX w) (fieldY w) m = w := by
  apply BitVec.eq_of_toNat_eq
  rw [group_toNat] at hop
  rw [fieldN_toNat] at hm
  rw [formatR_toNat, fieldX_val, fieldY_val]
  omega

theorem encode_of_decodeGroup0 {w : Word} {i : Instr} (h : decodeGroup0 w = some i) : i.WellFormed ∧ encode i = w := by
  unfold decodeGroup0 at h
  split_ifs at h with h0 h1 <;> obtain rfl := Option.some.inj h
  · exact ⟨rfl, h0.symm⟩
  · exact ⟨rfl, h1.symm⟩

theorem encode_of_decodeGroup8 {w : Word} {i : Instr} (hop : (w.extractLsb' 12 4).toNat = 0x8) (h : decodeGroup8 w = some i) :
    i.WellFormed ∧ encode i = w := by
  unfold decodeGroup8 at h
  split at h
  case h_10 => cases h
  all_goals
    rename_i hm
    obtain rfl := Option.some.inj h
    exact ⟨rfl, formatR_fields hop hm⟩

theorem encode_of_decodeGroupE {w : Word} {i : Instr} (hop : (w.extractLsb' 12 4).toNat = 0xE) (h : decodeGroupE w = some i) :
    i.WellFormed ∧ encode i = w := by
  unfold decodeGroupE at h
  split at h
  case h_3 => cases h
  all_goals
    rename_i hnn
    obtain rfl := Option.some.inj h
    exact ⟨rfl, formatI_fields hop hnn⟩

theorem encode_of_decodeGroupF {w : Word} {i : Instr} (hop : (w.extractLsb' 12 4).toNat = 0xF) (h : decodeGroupF w = some i) :
    i.WellFormed ∧ encode i = w := by
  unfold decodeGroupF at h
  split at h
  case h_10 => cases h
  all_goals
    rename_i hnn
    obtain rfl := Option.some.inj h
    exact ⟨rfl, formatI_fields hop hnn⟩

theorem encode_of_decode? {w : Word} {i : Instr} (h : decode? w = some i) : i.WellFormed ∧ encode i = w := by
  unfold decode? at h
  split at h
  case h_1 => exact encode_of_decodeGroup0 h
  case h_2 hop | h_3 hop | h_11 hop | h_12 hop => obtain rfl := Option.some.inj h; exact ⟨rfl, formatA_fields hop⟩
  case h_4 hop | h_5 hop | h_7 hop | h_8 hop | h_13 hop => obtain rfl := Option.some.inj h; exact ⟨rfl, formatI_fields hop rfl⟩
  case h_6 hop | h_10 hop =>
    split_ifs at h with hm
    obtain rfl := Option.some.inj h
    exact ⟨rfl, formatR_fields hop (congrArg BitVec.toNat hm)⟩
  case h_9 hop => exact encode_of_decodeGroup8 hop h
  case h_14 hop =>
    obtain rfl := Option.some.inj h
    have hn : BitVec.ofNat 4 (fieldN w).toNat = fieldN w := by simp
    exact ⟨decide_eq_true (fieldN w).isLt, formatR_fields hop (congrArg BitVec.toNat hn.symm)⟩
  case h_15 hop => exact encode_of_decodeGroupE hop h
  case h_16 hop => exact encode_of_decodeGroupF hop h
  case h_17 => cases h

/-- The decoder reads `i` from the encoding of a well-formed `i` and from no other word (30_encoding.md R85, R88). -/
theorem decode?_eq_some {w : Word} {i : Instr} : decode? w = some i ↔ i.WellFormed ∧ encode i = w := by
  constructor
  · exact encode_of_decode?
  · rintro ⟨wf, rfl⟩
    exact decode?_encode wf

/-- Settles O1: laying the word out in memory loses nothing, and each format's fields read back what was put into them. -/
theorem decodeInvertsEncode : Obligations.DecodeInvertsEncode := by
  intro i rest wf
  rw [decode_bytesOfWord, decodeWord_eq_ok.2 (decode?_eq_some.2 ⟨wf, rfl⟩)]
  rfl

/-- Settles O2: in each branch of R85 the tested bits and the operand fields are together the whole word. -/
theorem encodeInvertsDecode : Obligations.EncodeInvertsDecode :=
  fun _ _ h => decode?_eq_some.1 (decodeWord_eq_ok.1 h)

/-! ### The decoder and the rows of the opcode list -/

/-- A word agrees with the pattern of a row that accepts it on every field the row's mask covers. -/
theorem field_of_accepts {r : OpcodeRow} {w : Word} (h : r.accepts w = true) (start len : Nat)
    (covered : r.mask.extractLsb' start len = BitVec.allOnes len) : w.extractLsb' start len = r.pattern.extractLsb' start len := by
  have hw : w &&& r.mask = r.pattern := beq_iff_eq.1 h
  rw [← hw, BitVec.extractLsb'_and, covered, BitVec.and_allOnes]

theorem row_mem_opcodeTable (i : Instr) : i.row ∈ opcodeTable := by
  cases i <;> simp [opcodeTable, oneOfEachRow, Instr.row]

theorem group_of_accepts {r : OpcodeRow} {w : Word} (hr : r ∈ opcodeTable) (h : r.accepts w = true) :
    w.extractLsb' 12 4 = r.pattern.extractLsb' 12 4 :=
  have masked : ∀ r ∈ opcodeTable, r.mask.extractLsb' 12 4 = BitVec.allOnes 4 := by decide
  field_of_accepts h 12 4 (masked r hr)

theorem fieldN_of_accepts {name : String} {p w : Word} (h : OpcodeRow.accepts ⟨name, p, 0xF00F⟩ w = true) :
    fieldN w = p.extractLsb' 0 4 :=
  field_of_accepts h 0 4 (show (0xF00F#16).extractLsb' 0 4 = _ by decide)

theorem fieldNN_of_accepts {name : String} {p w : Word} (h : OpcodeRow.accepts ⟨name, p, 0xF0FF⟩ w = true) :
    fieldNN w = p.extractLsb' 0 8 :=
  field_of_accepts h 0 8 (show (0xF0FF#16).extractLsb' 0 8 = _ by decide)

theorem word_of_accepts {name : String} {p w : Word} (h : OpcodeRow.accepts ⟨name, p, 0xFFFF⟩ w = true) : w = p := by
  have hw : w &&& 0xFFFF = p := beq_iff_eq.1 h
  exact BitVec.and_allOnes.symm.trans hw

/-- A word that a row accepts decodes to an instruction of that row. -/
theorem decode?_row_of_accepts {i : Instr} {w : Word} (h : i.row.accepts w = true) : (decode? w).map Instr.row = some i.row := by
  have hop := group_of_accepts (row_mem_opcodeTable i) h
  cases i with
  | cls | ret => obtain rfl := word_of_accepts h; rfl
  | jp _ | call _ | ldI _ | jpV0 _ | seImm _ _ | sneImm _ _ | ldImm _ _ | addImm _ _ | rnd _ _ | drw _ _ _ =>
    simp [decode?, hop, Instr.row]
  | seReg _ _ | sneReg _ _ => simp [decode?, hop, fieldN_of_accepts h, Instr.row]
  | ldReg _ _ | orReg _ _ | andReg _ _ | xorReg _ _ | addReg _ _ | sub _ _ | shr _ _ | subn _ _ | shl _ _ =>
    simp [decode?, decodeGroup8, hop, fieldN_of_accepts h, Instr.row]
  | skp _ | sknp _ => simp [decode?, decodeGroupE, hop, fieldNN_of_accepts h, Instr.row]
  | ldVxDt _ | ldVxK _ | ldDtVx _ | ldStVx _ | addI _ | ldF _ | ldB _ | storeRegs _ | loadRegs _ =>
    simp [decode?, decodeGroupF, hop, fieldNN_of_accepts h, Instr.row]

open Laws.EncodingMatchesRow in
/-- The encoding of a well-formed instruction has the fixed bits of its row: the laws of each constructor, collected (R86). -/
theorem encoding_matches_row : ∀ i : Instr, Statement i
  | .cls => cls | .ret => ret | .jp n => jp n | .call n => call n | .ldI n => ldI n | .jpV0 n => jpV0 n
  | .seImm x nn => seImm x nn | .sneImm x nn => sneImm x nn | .seReg x y => seReg x y | .sneReg x y => sneReg x y
  | .ldImm x nn => ldImm x nn | .addImm x nn => addImm x nn | .rnd x nn => rnd x nn | .drw x y n => drw x y n
  | .ldReg x y => ldReg x y | .orReg x y => orReg x y | .andReg x y => andReg x y | .xorReg x y => xorReg x y
  | .addReg x y => addReg x y | .sub x y => sub x y | .shr x y => shr x y | .subn x y => subn x y | .shl x y => shl x y
  | .skp x => skp x | .sknp x => sknp x | .ldVxDt x => ldVxDt x | .ldDtVx x => ldDtVx x | .ldStVx x => ldStVx x
  | .addI x => addI x | .ldVxK x => ldVxK x | .ldF x => ldF x | .ldB x => ldB x | .storeRegs x => storeRegs x
  | .loadRegs x => loadRegs x

theorem row_accepts_of_decode? {w : Word} {i : Instr} (h : decode? w = some i) : i.row.accepts w = true := by
  obtain ⟨wf, rfl⟩ := decode?_eq_some.1 h
  exact encoding_matches_row i wf

/-- The row of the instruction a word decodes to is the row of the opcode list that accepts the word (R85, R86). -/
theorem decode?_row_eq_some {w : Word} {r : OpcodeRow} :
    (decode? w).map Instr.row = some r ↔ r ∈ opcodeTable ∧ r.accepts w = true := by
  constructor
  · intro h
    obtain ⟨i, hi, rfl⟩ := Option.map_eq_some_iff.1 h
    exact ⟨row_mem_opcodeTable i, row_accepts_of_decode? hi⟩
  · rintro ⟨hr, h⟩
    obtain ⟨i, _, rfl⟩ := List.mem_map.1 hr
    exact decode?_row_of_accepts h

theorem decode?_eq_none {w : Word} : decode? w = none ↔ ∀ r ∈ opcodeTable, r.accepts w = false := by
  constructor
  · intro hd r hr
    by_contra h
    have hrow := decode?_row_eq_some.2 ⟨hr, Bool.eq_true_of_not_eq_false h⟩
    rw [hd] at hrow
    cases hrow
  · intro hnone
    cases hd : decode? w with
    | none => rfl
    | some i =>
      have hacc := row_accepts_of_decode? hd
      rw [hnone _ (row_mem_opcodeTable i)] at hacc
      cases hacc

/-- Settles O3: the accepting row is that of the decoded instruction, so there is one row or none. -/
theorem decoderAgreesWithOpcodeList : Obligations.DecoderAgreesWithOpcodeList := by
  constructor
  · intro w i h
    have hi : decode? w = some i := decodeWord_eq_ok.1 h
    refine ⟨row_mem_opcodeTable i, row_accepts_of_decode? hi, fun r hr hacc => ?_⟩
    have hrow := decode?_row_eq_some.2 ⟨hr, hacc⟩
    rw [hi] at hrow
    exact (Option.some.inj hrow).symm
  · intro w e h
    obtain ⟨hd, he⟩ := decodeWord_eq_error.1 h
    exact ⟨he, decode?_eq_none.1 hd⟩

/-- Settles O4: nine decoded words and a rejected one, evaluated. -/
theorem sampleWordsDecode : Obligations.SampleWordsDecode := by
  unfold Obligations.SampleWordsDecode
  decide

end Sys2Proof

namespace Sys2Proof.Machine

/-! ### A word that no row accepts -/

/-- Settles O5: the two bytes are appended, the one at `pc` above the one at `pc + 1`. -/
theorem instructionWordIsBigEndian : Obligations.InstructionWordIsBigEndian :=
  fun _ => wordOfBytes_toNat _ _

theorem step_of_fault_halt {s : State} {f : Fault} (hp : perform s.nextOp s.popOp = .fault f) (hpol : s.policy = .halt) :
    step s = .fault f := by
  have hpop : s.popOp.policy = .halt := hpol
  simp [step, runNextOp, settleError, hp, hpop]

theorem step_of_fault_goOn {s : State} {f : Fault} (hp : perform s.nextOp s.popOp = .fault f) (hpol : s.policy = .goOn) :
    step s = .next (afterError s.nextOp s.popOp) :=
  step_eq_next.2 (.inr ⟨f, hp, hpol, rfl⟩)

/-- A cycle that does not wait reports a word that does not decode (60_exceptions.md R204). -/
theorem cycle_of_decode?_eq_none {s : State} (hw : s.wait = .run) (hf : s.canFetch) (hd : decode? s.fetchWord = none) :
    cycle s = .fault (.invalidOpcode s.fetchWord) := by
  simp [cycle, hw, cycleRun, hf, decodeWord, hd, raise]

theorem advance_popOp_onlyChanges (s : State) : OnlyChanges (fun p => p = .pc ∨ p = .pending) s s.popOp.advance := by
  intro p hp
  cases p with
  | pc | pending => simp at hp
  | _ => rfl

/-- Settles O8: a word no row accepts does not decode, and what the error leaves is the advanced state. -/
theorem invalidWordIsReported : Obligations.InvalidWordIsReported := by
  refine ⟨fun s hop hw hpc hrows => ?_, by decide⟩
  have hf : s.popOp.canFetch := hpc
  have hp : perform s.nextOp s.popOp = .fault (.invalidOpcode s.fetchWord) := by
    rw [hop]
    exact cycle_of_decode?_eq_none (s := s.popOp) hw hf (decode?_eq_none.2 hrows)
  have hafter : afterError s.nextOp s.popOp = s.popOp.advance := by
    rw [hop]
    exact if_pos hf
  refine ⟨step_of_fault_halt hp, fun hpol => ⟨s.popOp.advance, ?_, advance_pc_toNat hf, advance_popOp_onlyChanges s⟩⟩
  rw [step_of_fault_goOn hp hpol, hafter]

/-! ### No refusal -/

theorem next_ne_refused {s : State} {q : Refusal} : (.next s : Result) ≠ .refused q := nofun

theorem guardBound_next_ne_refused {limit last : Nat} {t : State} {q : Refusal} :
    guardBound limit last (.next t) ≠ .refused q := by
  unfold guardBound raise
  split <;> nofun

/-- Every word a row accepts has its meaning (40_operations.md R106). -/
theorem exec_ne_refused {i : Instr} {s : State} {q : Refusal} : exec i s ≠ .refused q := by
  cases i with
  | call nnn => simp only [exec, execCall, pushReturn, raise]; split <;> nofun
  | ret => simp only [exec, execRet, popReturn, raise]; split <;> nofun
  | drw x y n =>
    cases n with
    | zero => exact next_ne_refused
    | succ m => exact guardBound_next_ne_refused
  | skp _ | sknp _ | ldB _ | storeRegs _ | loadRegs _ => exact guardBound_next_ne_refused
  | _ => exact next_ne_refused

theorem cycle_ne_refused {s : State} {q : Refusal} : cycle s ≠ .refused q := by
  unfold cycle cycleRun raise
  split
  case h_1 =>
    split_ifs
    · split
      · exact exec_ne_refused
      · nofun
    · nofun
  case h_2 | h_3 => exact next_ne_refused

theorem perform_ne_refused {op : HostOp} {s : State} {q : Refusal} : perform op s ≠ .refused q := by
  cases op with
  | cycle => exact cycle_ne_refused
  | load bytes =>
    simp only [perform, hostLoad, raise]
    split <;> nofun
  | reset | tickTimers | setKey _ _ | framebufferSnapshot => exact next_ne_refused

theorem settleError_ne_refused {op : HostOp} {s : State} {r : Result} {q : Refusal} (h : r ≠ .refused q) :
    settleError op s r ≠ .refused q := by
  unfold settleError
  split
  case h_1 => exact next_ne_refused
  case h_2 => split <;> nofun
  case h_3 => exact h

/-- Settles O11: no operation is refused, and the reaction to an error is a fault or a next state. -/
theorem noStepIsRefused : Obligations.NoStepIsRefused :=
  fun _ _ => settleError_ne_refused perform_ne_refused

end Sys2Proof.Machine

/-! PROOFS. The family 40_operations.md: what the host's operations other than `reset` answer and leave unchanged, what a step makes
of a fetched instruction and of a failed fetch, and that a host which goes on after errors never stops. -/

namespace Sys2Proof.Machine

/-! ### The step -/

/-- Settles O12: an error is answered with the state it leaves, and no operation is refused. -/
theorem continuingHostNeverStops : Obligations.ContinuingHostNeverStops := by
  intro s hpol
  cases hp : perform s.nextOp s.popOp with
  | next t => exact ⟨t, step_eq_next.2 (.inl hp)⟩
  | fault f => exact ⟨_, step_of_fault_goOn hp hpol⟩
  | refused q => exact absurd hp perform_ne_refused

theorem decode_pair_eq_ok {hi lo : Byte} {i : Instr} :
    decode [hi, lo] = .ok (i, []) ↔ decodeWord (wordOfBytes hi lo) = .ok i := by
  rw [decode]
  cases decodeWord (wordOfBytes hi lo) with
  | ok j => simp [Except.map]
  | error e => simp [Except.map]

/-- A cycle that does not wait runs the instruction it fetched (40_operations.md R104 to R106). -/
theorem cycle_of_decodeWord_eq_ok {s : State} {i : Instr} (hw : s.wait = .run) (hf : s.canFetch)
    (hd : decodeWord s.fetchWord = .ok i) : cycle s = exec i s.advance := by
  simp [cycle, hw, cycleRun, hf, hd]

/-- A cycle that does not wait reports a `pc` with no two bytes to fetch (R104). -/
theorem cycle_of_not_canFetch {s : State} (hw : s.wait = .run) (hf : ¬ s.canFetch) :
    cycle s = .fault (.outOfBounds s.pc.toNat) := by
  simp [cycle, hw, cycleRun, hf, raise]

/-- Settles O6: the cycle is the decoded instruction on the advanced state, which is also what its error leaves. -/
theorem stepRunsDecodedInstruction : Obligations.StepRunsDecodedInstruction := by
  intro s i hop hw hpc hd
  have hf : s.popOp.canFetch := hpc
  have hp : perform s.nextOp s.popOp = exec i s.popOp.advance := by
    rw [hop]
    exact cycle_of_decodeWord_eq_ok (s := s.popOp) hw hf (decode_pair_eq_ok.1 hd)
  have hafter : afterError s.nextOp s.popOp = s.popOp.advance := by
    rw [hop]
    exact if_pos hf
  refine ⟨fun t ht => step_eq_next.2 (.inl (hp.trans ht)), fun f he => step_of_fault_halt (hp.trans he), fun f he hpol => ?_,
    advance_pc_toNat hf, advance_popOp_onlyChanges s⟩
  rw [step_of_fault_goOn (hp.trans he) hpol, hafter]

/-- Settles O7: the failed fetch comes before the pre-advance, so its error leaves the state as it was. -/
theorem fetchAboveTopFails : Obligations.FetchAboveTopFails := by
  intro s hop hw hpc
  have hf : ¬ s.popOp.canFetch := Nat.not_le_of_lt hpc
  have hp : perform s.nextOp s.popOp = .fault (.outOfBounds s.pc.toNat) := by
    rw [hop]
    exact cycle_of_not_canFetch (s := s.popOp) hw hf
  have hafter : afterError s.nextOp s.popOp = s.popOp := by
    rw [hop]
    exact if_neg hf
  refine ⟨step_of_fault_halt hp, fun hpol => ?_⟩
  rw [step_of_fault_goOn hp hpol, hafter]

/-! ### The key wait -/

/-- Settles O45: while a key is awaited `cycle` answers before it fetches. -/
theorem awaitingCycleDoesNothing : Obligations.AwaitingCycleDoesNothing :=
  fun _ x hw => cycle_eq_next.2 (.inr (.inl ⟨⟨x, hw⟩, rfl⟩))

theorem completeKeyWait_onlyChanges (x : Reg) (k : Key) (s : State) :
    OnlyChanges (fun p => p = .reg x ∨ p = .pc ∨ p = .wait) s (completeKeyWait x k s) := by
  intro p hp
  cases p with
  | reg r =>
    have hr : r ≠ x := by simpa using hp
    exact (State.setReg_reg s x _ r).trans (if_neg hr)
  | pc | wait => simp at hp
  | _ => rfl

theorem completeKeyWait_reg_toNat (x : Reg) (k : Key) (s : State) : ((completeKeyWait x k s).reg x).toNat = k.val := by
  have hk : k.val % 256 = k.val := Nat.mod_eq_of_lt (by omega)
  simp [completeKeyWait, hk]

/-- Settles O46: the cycle is `completeKeyWait`, and a key index fits a byte. -/
theorem capturedKeyCompletes : Obligations.CapturedKeyCompletes := fun s x k hw =>
  ⟨completeKeyWait x k s, cycle_eq_next.2 (.inr (.inr ⟨x, k, hw, rfl⟩)), completeKeyWait_reg_toNat x k s, rfl, rfl,
    completeKeyWait_onlyChanges x k s⟩

/-! ### `set_key` -/

theorem hostSetKey_of_key (k : Key) (pressed : Bool) (s : State) :
    hostSetKey k.val pressed s = setKeyInRange k pressed s := by
  have hk : (0 : Int) ≤ k.val ∧ (k.val : Int) ≤ 15 := by omega
  rw [hostSetKey, if_pos hk, Int.toNat_natCast, Fin.ofNat_val_eq_self]

theorem hostSetKey_outside {k : Int} (h : k < 0 ∨ 15 < k) (pressed : Bool) (s : State) : hostSetKey k pressed s = s :=
  if_neg (by omega)

/-- `set_key` writes the flag, and on a press edge `WAIT` (40_operations.md R110). -/
theorem setKeyInRange_eq (k : Key) (pressed : Bool) (s : State) :
    setKeyInRange k pressed s =
      (s.setKeyFlag k pressed).setWait (if pressed && !s.keyFlag k then waitAfterEdge s.wait k else s.wait) := by
  unfold setKeyInRange
  split <;> rfl

theorem waitAfterEdge_of_not_awaiting {w : Wait} (h : ∀ x, w ≠ .awaitKey x) (k : Key) : waitAfterEdge w k = w := by
  cases w with
  | awaitKey x => exact absurd rfl (h x)
  | run | keyCaptured => rfl

theorem setKeyInRange_captures {k : Key} {s : State} {x : Reg} (hw : s.wait = .awaitKey x) (hup : s.keyFlag k = false) :
    (setKeyInRange k true s).wait = .keyCaptured x k := by
  simp [setKeyInRange_eq, hup, hw, waitAfterEdge]

theorem setKeyInRange_keeps_wait {k : Key} {pressed : Bool} {s : State}
    (h : pressed = false ∨ s.keyFlag k = true ∨ ∀ x, s.wait ≠ .awaitKey x) : (setKeyInRange k pressed s).wait = s.wait := by
  rw [setKeyInRange_eq, State.setWait_wait]
  obtain hreleased | hheld | hidle := h
  · simp [hreleased]
  · simp [hheld]
  · rw [waitAfterEdge_of_not_awaiting hidle, ite_self]

theorem setKeyInRange_onlyChanges (k : Key) (pressed : Bool) (s : State) :
    OnlyChanges (fun p => p = .keyFlag k ∨ p = .wait) s (setKeyInRange k pressed s) := by
  rw [setKeyInRange_eq]
  intro p hp
  cases p with
  | keyFlag j =>
    have hj : j ≠ k := by simpa using hp
    exact (State.setKeyFlag_keyFlag s k pressed j).trans (if_neg hj)
  | wait => simp at hp
  | _ => rfl

/-- Settles O48: only a press edge reaches `waitAfterEdge`, and that moves only a wait for a key. -/
theorem setKeyWritesFlag : Obligations.SetKeyWritesFlag := by
  constructor
  · intro k pressed s
    refine ⟨setKeyInRange k pressed s, congrArg _ (hostSetKey_of_key k pressed s), by simp [setKeyInRange_eq], ?_,
      setKeyInRange_keeps_wait, setKeyInRange_onlyChanges k pressed s⟩
    rintro x hw rfl hup
    exact setKeyInRange_captures hw hup
  · intro k pressed s hk
    exact congrArg _ (hostSetKey_outside hk pressed s)

/-! ### `tick_timers`, `framebuffer_snapshot` and `load` -/

theorem tickDown_toNat (b : Byte) : (tickDown b).toNat = b.toNat - 1 := by
  unfold tickDown
  split
  case isTrue h => simp [h]
  case isFalse h => bv_omega

theorem hostTick_onlyChanges (s : State) : OnlyChanges (fun p => p = .delayTimer ∨ p = .soundTimer) s (hostTick s) := by
  intro p hp
  cases p with
  | delayTimer | soundTimer => simp at hp
  | _ => rfl

/-- Settles O50: the tick is `tickDown` on DT and on ST. -/
theorem tickDecrementsTimers : Obligations.TickDecrementsTimers := fun s =>
  ⟨hostTick s, rfl, tickDown_toNat s.dt, tickDown_toNat s.st, hostTick_onlyChanges s⟩

theorem snapshot_length (s : State) : (snapshot s).length = 2048 := by
  simp [snapshot]

theorem snapshot_getElem? (s : State) (y : Fin 32) (x : Fin 64) :
    (snapshot s)[y.val * 64 + x.val]? = some (s.fb.pixel y x) := by
  have hlt : y.val * 64 + x.val < 2048 := by omega
  have hrow : Fin.ofNat 32 ((y.val * 64 + x.val) / 64) = y := Fin.ext (by simp only [Fin.val_ofNat]; omega)
  have hcol : Fin.ofNat 64 (y.val * 64 + x.val) = x := Fin.ext (by simp only [Fin.val_ofNat]; omega)
  rw [snapshot, List.getElem?_map, List.getElem?_range hlt, Option.map_some, hrow, hcol]

/-- Settles O41: row and column are quotient and remainder of the element's index by 64. -/
theorem snapshotIsRowMajor : Obligations.SnapshotIsRowMajor :=
  fun s => ⟨snapshot_length s, snapshot_getElem? s, rfl⟩

theorem storeBytes_readByte_add (s : State) (a : Nat) (bs : List Byte) {k : Nat} (h : k < bs.length) :
    (s.storeBytes a bs).readByte (a + k) = bs[k] := by
  have inside : a ≤ a + k ∧ a + k < a + bs.length := by omega
  rw [State.storeBytes_readByte, if_pos inside, Nat.add_sub_cancel_left, List.getD_eq_getElem bs 0#8 h]

theorem storeBytes_onlyChanges (s : State) (a : Nat) (bs : List Byte) :
    OnlyChanges (fun p => ∃ n, p = .byte n ∧ a ≤ n ∧ n < a + bs.length) s (s.storeBytes a bs) := by
  intro p hp
  cases p with
  | byte n =>
    have hout : ¬ (a ≤ n ∧ n < a + bs.length) := fun hin => hp ⟨n, rfl, hin⟩
    exact (State.storeBytes_readByte s a bs n).trans (if_neg hout)
  | _ => rfl

/-- Settles O53: a ROM that fits is one run of byte writes from 0x200 on; the length test comes before the first write. -/
theorem loadWritesRom : Obligations.LoadWritesRom := fun bytes s =>
  ⟨fun hfits => ⟨s.storeBytes 0x200 bytes, hostLoad_eq_next.2 ⟨hfits, rfl⟩, fun _ => storeBytes_readByte_add s 0x200 bytes,
    storeBytes_onlyChanges s 0x200 bytes⟩, fun hlong => if_pos hlong⟩

end Sys2Proof.Machine

/-! PROOFS. The family 41_control_flow.md: which word spells an instruction of each format, what the eight control-flow
instructions write, and what a step makes of an instruction that leads back to its own address. -/

namespace Sys2Proof.Machine

/-! ### The word that spells an instruction -/

theorem spelledBy_encode {i : Instr} {n : Nat} (wf : i.WellFormed) (hn : (encode i).toNat = n) : SpelledBy i n := by
  intro w
  rw [decodeWord_eq_ok, decode?_eq_some, ← hn, ← BitVec.toNat_inj]
  exact ⟨fun h => h.2.symm, fun h => ⟨wf, h.symm⟩⟩

theorem spelledBy_formatA {i : Instr} {op : BitVec 4} {nnn : BitVec 12} {base : Nat} (wf : i.WellFormed)
    (henc : encode i = formatA op nnn) (hbase : op.toNat * 0x1000 = base) : SpelledBy i (base + nnn.toNat) :=
  spelledBy_encode wf (by rw [henc, formatA_toNat, hbase])

theorem spelledBy_formatI {i : Instr} {op : BitVec 4} {x : Reg} {nn : Byte} {base : Nat} (wf : i.WellFormed)
    (henc : encode i = formatI op x nn) (hbase : op.toNat * 0x1000 = base) :
    SpelledBy i (base + 0x100 * x.val + nn.toNat) :=
  spelledBy_encode wf (by rw [henc, formatI_toNat, hbase, Nat.mul_comm x.val])

theorem spelledBy_formatR {i : Instr} {op m : BitVec 4} {x y : Reg} {base : Nat} (wf : i.WellFormed)
    (henc : encode i = formatR op x y m) (hbase : op.toNat * 0x1000 + m.toNat = base) :
    SpelledBy i (base + 0x100 * x.val + 0x10 * y.val) :=
  spelledBy_encode wf (by rw [henc, formatR_toNat, ← hbase]; ring)

/-! ### Frames -/

theorem setPc_onlyChanges (s : State) (w : Word) : OnlyChanges (fun p => p = .pc) s (s.setPc w) := by
  intro p hp
  cases p with
  | pc => exact absurd rfl hp
  | _ => rfl

theorem skipIf_onlyChanges (s : State) (c : Bool) : OnlyChanges (fun p => p = .pc) s (s.skipIf c) := by
  rw [skipIf_eq]
  exact setPc_onlyChanges s _

theorem setStack_onlyChanges (s : State) (l : List Word) : OnlyChanges (fun p => p = .stack) s (s.setStack l) := by
  intro p hp
  cases p with
  | stack => exact absurd rfl hp
  | _ => rfl

theorem setStack_setPc_onlyChanges (s : State) (l : List Word) (w : Word) :
    OnlyChanges (fun p => p = .pc ∨ p = .stack) s ((s.setStack l).setPc w) := by
  intro p hp
  cases p with
  | pc | stack => simp at hp
  | _ => rfl

/-! ### Jumps -/

/-- Settles O13: the counter is the operand, extended by zeros. -/
theorem jumpSetsCounter : Obligations.JumpSetsCounter := fun nnn s =>
  ⟨spelledBy_formatA rfl rfl rfl, s.setPc (addr16 nnn), rfl, addr16_toNat nnn, setPc_onlyChanges s _⟩

theorem zext16_toNat (b : Byte) : (zext16 b).toNat = b.toNat := by
  simp [zext16]; omega

/-- The sum of BNNN fits 16 bits (41_control_flow.md R128). -/
theorem jumpTarget_toNat (nnn : BitVec 12) (b : Byte) : (addr16 nnn + zext16 b).toNat = nnn.toNat + b.toNat := by
  rw [BitVec.toNat_add, addr16_toNat, zext16_toNat]
  omega

theorem topNibble_val (nnn : BitVec 12) : (topNibble nnn).val = nnn.toNat / 0x100 := by
  have hfield : (topNibble nnn).val = nnn.toNat >>> 8 % 2 ^ 4 := BitVec.extractLsb'_toNat 8 4 nnn
  rw [hfield, Nat.shiftRight_eq_div_pow]
  omega

theorem jumpReg_of_plain {s : State} (hq : s.cfg.jumpVx = false) (nnn : BitVec 12) : jumpReg s nnn = 0 := by
  simp [jumpReg, hq]

theorem jumpReg_of_quirk {s : State} (hq : s.cfg.jumpVx = true) {nnn : BitVec 12} {x : Reg} (hx : x.val = nnn.toNat / 0x100) :
    jumpReg s nnn = x := by
  have htop : topNibble nnn = x := Fin.ext ((topNibble_val nnn).trans hx.symm)
  simp [jumpReg, hq, htop]

/-- Settles O20: the sum is never reduced, and the toggle chooses the register in it. -/
theorem jumpWithOffset : Obligations.JumpWithOffset := by
  intro nnn s
  have target := jumpTarget_toNat nnn (s.reg (jumpReg s nnn))
  refine ⟨spelledBy_formatA rfl rfl rfl, _, rfl, fun hq => ?_, fun hq x hx => ?_, setPc_onlyChanges s _⟩
  · exact jumpReg_of_plain hq nnn ▸ target
  · exact jumpReg_of_quirk hq hx ▸ target

/-! ### Calls and returns -/

theorem exec_call_of_room {s : State} (room : s.stack.length < 16) (nnn : BitVec 12) :
    exec (.call nnn) s = .next ((s.setStack (s.pc :: s.stack)).setPc (addr16 nnn)) := by
  simp [exec, execCall, pushReturn_eq_next, room]

theorem exec_call_of_full {s : State} (full : 16 ≤ s.stack.length) (nnn : BitVec 12) :
    exec (.call nnn) s = .fault .stackOverflow := by
  simp [exec, execCall, pushReturn_eq_fault, full]

theorem exec_ret_of_cons {s : State} {w : Word} {rest : List Word} (top : s.stack = w :: rest) :
    exec .ret s = .next ((s.setStack rest).setPc w) := by
  simp [exec, execRet, popReturn_eq_next, top]

theorem exec_ret_of_nil {s : State} (empty : s.stack = []) : exec .ret s = .fault .stackUnderflow := by
  simp [exec, execRet, popReturn_eq_fault, empty]

/-- Settles O15: the push is refused by the depth alone. -/
theorem callPushesReturnAddress : Obligations.CallPushesReturnAddress := fun nnn s =>
  ⟨spelledBy_formatA rfl rfl rfl,
    fun room => ⟨_, exec_call_of_room room nnn, rfl, addr16_toNat nnn, setStack_setPc_onlyChanges s _ _⟩,
    fun full => exec_call_of_full (Nat.le_of_eq full.symm) nnn⟩

/-- Settles O16: the pop is refused by the empty stack alone. -/
theorem returnPopsAddress : Obligations.ReturnPopsAddress := fun s =>
  ⟨spelledBy_encode rfl rfl,
    fun _ _ top => ⟨_, exec_ret_of_cons top, rfl, rfl, setStack_setPc_onlyChanges s _ _⟩,
    exec_ret_of_nil⟩

/-! ### Skips -/

theorem skipIf_beq_pc (s : State) (a b : Byte) : (s.skipIf (a == b)).pc = if a = b then s.pc + 2 else s.pc := by
  simp

theorem skipIf_bne_pc (s : State) (a b : Byte) : (s.skipIf (a != b)).pc = if a = b then s.pc else s.pc + 2 := by
  simp

/-- Settles O18: the two conditions are `==` and `!=` of the same two bytes. -/
theorem skipsOnImmediate : Obligations.SkipsOnImmediate := fun x nn s =>
  ⟨spelledBy_formatI rfl rfl rfl, spelledBy_formatI rfl rfl rfl,
    ⟨_, rfl, skipIf_beq_pc s (s.reg x) nn, skipIf_onlyChanges s _⟩,
    ⟨_, rfl, skipIf_bne_pc s (s.reg x) nn, skipIf_onlyChanges s _⟩⟩

/-- Settles O19: the two conditions are `==` and `!=` of the same two registers. -/
theorem skipsOnRegisters : Obligations.SkipsOnRegisters := fun x y s =>
  ⟨spelledBy_formatR rfl rfl rfl, spelledBy_formatR rfl rfl rfl,
    ⟨_, rfl, skipIf_beq_pc s (s.reg x) (s.reg y), skipIf_onlyChanges s _⟩,
    ⟨_, rfl, skipIf_bne_pc s (s.reg x) (s.reg y), skipIf_onlyChanges s _⟩⟩

/-! ### An instruction that leads back to itself -/

/-- The next step is the cycle that runs `i`: nothing is lined up before it, the machine does not wait, and the bytes at `pc`
decode to `i`. -/
structure Runs (i : Instr) (s : State) : Prop where
  idle : s.pending = []
  run : s.wait = .run
  canFetch : s.canFetch
  decodes : decode [s.readByte s.pc.toNat, s.readByte (s.pc.toNat + 1)] = .ok (i, [])

theorem Runs.setStack {i : Instr} {s : State} (h : Runs i s) (l : List Word) : Runs i (s.setStack l) :=
  ⟨h.idle, h.run, h.canFetch, h.decodes⟩

theorem nextOp_of_idle {s : State} (idle : s.pending = []) : s.nextOp = .cycle := by
  rw [State.nextOp, idle]
  rfl

theorem popOp_of_idle {s : State} (idle : s.pending = []) : s.popOp = s := by
  have htail : s.pending.tail = s.pending := by rw [idle]; rfl
  rw [State.popOp, htail, State.setPending_self]

theorem Runs.step_eq_next {i : Instr} {s t : State} (h : Runs i s) (he : exec i s.advance = .next t) : step s = .next t := by
  obtain ⟨onNext, -⟩ := stepRunsDecodedInstruction s i (nextOp_of_idle h.idle) h.run h.canFetch h.decodes
  rw [popOp_of_idle h.idle] at onNext
  exact onNext t he

theorem Runs.step_eq_fault {i : Instr} {s : State} {f : Fault} (h : Runs i s) (he : exec i s.advance = .fault f)
    (hpol : s.policy = .halt) : step s = .fault f := by
  obtain ⟨-, onFault, -⟩ := stepRunsDecodedInstruction s i (nextOp_of_idle h.idle) h.run h.canFetch h.decodes
  rw [popOp_of_idle h.idle] at onFault
  exact onFault f he hpol

theorem addr16_eq {nnn : BitVec 12} {w : Word} (h : nnn.toNat = w.toNat) : addr16 nnn = w :=
  BitVec.eq_of_toNat_eq ((addr16_toNat nnn).trans h)

/-- Settles O14: the jump undoes the pre-advance, and nothing else was written. -/
theorem selfJumpRepeatsState : Obligations.SelfJumpRepeatsState := by
  intro s nnn idle run hf hd hself
  have he : exec (.jp nnn) s.advance = .next (s.advance.setPc s.pc) := by rw [← addr16_eq hself]; rfl
  exact Runs.step_eq_next ⟨idle, run, hf, hd⟩ he

/-- While there is room, a call to its own address only pushes the address after it. -/
theorem step_selfCall {s : State} {nnn : BitVec 12} (h : Runs (.call nnn) s) (hself : nnn.toNat = s.pc.toNat)
    (room : s.stack.length < 16) : step s = .next (s.setStack ((s.pc + 2) :: s.stack)) := by
  have he := exec_call_of_room (s := s.advance) room nnn
  rw [addr16_eq hself] at he
  exact h.step_eq_next he

theorem run_succ {s t : State} (h : step s = .next t) (k : Nat) : core.run (k + 1) s = core.run k t := by
  have hcore : core.step s = .next t := h
  simp only [Host.Core.run, hcore]

/-- `k` self-calls push the return address `k` times, as long as the stack has room for them. -/
theorem run_selfCall (k : Nat) {s : State} {nnn : BitVec 12} (h : Runs (.call nnn) s) (hself : nnn.toNat = s.pc.toNat)
    (room : s.stack.length + k ≤ 16) : core.run k s = .next (s.setStack (List.replicate k (s.pc + 2) ++ s.stack)) := by
  induction k generalizing s with
  | zero => rfl
  | succ k ih =>
    have roomAfter : (s.setStack ((s.pc + 2) :: s.stack)).stack.length + k ≤ 16 := by
      simp only [State.setStack_stack, List.length_cons]; omega
    rw [run_succ (step_selfCall h hself (by omega)), ih (h.setStack ((s.pc + 2) :: s.stack)) hself roomAfter,
      List.replicate_succ', List.append_assoc]
    rfl

/-- Settles O17: sixteen self-calls fill the empty stack, and the call that is fetched once more finds no room. -/
theorem selfCallOverflowsOnSeventeenth : Obligations.SelfCallOverflowsOnSeventeenth := by
  intro s nnn idle hpol run empty hf hd hself
  have h : Runs (.call nnn) s := ⟨idle, run, hf, hd⟩
  have hrun := run_selfCall 16 h hself (by simp [empty])
  rw [empty, List.append_nil] at hrun
  have full : 16 ≤ (s.setStack (List.replicate 16 (s.pc + 2))).advance.stack.length := Nat.le_refl 16
  exact ⟨_, hrun, rfl, rfl, setStack_onlyChanges s _, (h.setStack _).step_eq_fault (exec_call_of_full full nnn) hpol⟩

end Sys2Proof.Machine

/-! PROOFS. The family 42_register_alu.md: what a write of one register, and of a result with its flag, changes and leaves
unchanged; what the byte operations and the flags are as numbers; the twelve instructions are then read off these. -/

namespace Sys2Proof.Machine

/-! ### What a register write changes -/

theorem Part.same.trans {s t u : State} {p : Part} (hst : p.same s t) (htu : p.same t u) : p.same s u := by
  cases p <;> exact Eq.trans htu hst

theorem OnlyChanges.trans {may may' : Part → Prop} {s t u : State} (hst : OnlyChanges may s t) (htu : OnlyChanges may' t u) :
    OnlyChanges (fun p => may p ∨ may' p) s u :=
  fun p hp => (hst p fun h => hp (.inl h)).trans (htu p fun h => hp (.inr h))

theorem setReg_onlyChanges (s : State) (x : Reg) (b : Byte) : OnlyChanges (fun p => p = .reg x) s (s.setReg x b) := by
  intro p hp
  cases p with
  | reg r =>
    have hr : r ≠ x := fun h => hp (congrArg Part.reg h)
    exact (State.setReg_reg s x b r).trans (if_neg hr)
  | _ => rfl

theorem bumpDraws_onlyChanges (s : State) : OnlyChanges (fun p => p = .draws) s s.bumpDraws := by
  intro p hp
  cases p with
  | draws => exact absurd rfl hp
  | _ => rfl

theorem setResultFlag_onlyChanges (s : State) (x : Reg) (r : Byte) (c : Bool) :
    OnlyChanges (fun p => p = .reg x ∨ p = .reg 15) s (s.setResultFlag x r c) :=
  (setReg_onlyChanges s x r).trans (setReg_onlyChanges _ 15 (b2i c))

theorem setReg_reg_self (s : State) (x : Reg) (b : Byte) : (s.setReg x b).reg x = b :=
  (State.setReg_reg s x b x).trans (if_pos rfl)

theorem setResultFlag_reg_self {x : Reg} (hx : x ≠ 15) (s : State) (r : Byte) (c : Bool) :
    (s.setResultFlag x r c).reg x = r := by
  simp [hx]

/-- VF reads as the flag whatever the destination is, register 15 included (R153). -/
theorem setResultFlag_flag_toNat (s : State) (x : Reg) (r : Byte) (c : Bool) :
    ((s.setResultFlag x r c).reg 15).toNat = c.toNat := by
  rw [setResultFlag_reg, if_pos rfl]
  cases c <;> rfl

/-! ### Byte operations and flags as numbers -/

theorem byte_sub_toNat (a b : Byte) : ((a - b).toNat : Int) = ((a.toNat : Int) - b.toNat) % 256 := by
  rw [BitVec.toNat_sub]
  omega

theorem byte_ushiftRight_one_toNat (a : Byte) : (a >>> 1).toNat = a.toNat / 2 := by
  rw [BitVec.toNat_ushiftRight, Nat.shiftRight_one]

theorem byte_shiftLeft_one_toNat (a : Byte) : (a <<< 1).toNat = a.toNat * 2 % 256 := by
  rw [BitVec.toNat_shiftLeft, Nat.shiftLeft_eq]

theorem carry_toNat (a b : Byte) : (carry a b).toNat = if a.toNat + b.toNat > 255 then 1 else 0 := by
  simp [carry, Bool.toNat, Bool.cond_decide]

theorem notBorrow_toNat (a b : Byte) : (notBorrow a b).toNat = if a.toNat ≥ b.toNat then 1 else 0 := by
  simp [notBorrow, Bool.toNat, Bool.cond_decide]

theorem lowBit_toNat (a : Byte) : (lowBit a).toNat = a.toNat % 2 := by
  have hbit : (lowBit a).toNat = a.toNat / 1 % 2 := Nat.toNat_testBit a.toNat 0
  omega

theorem highBit_toNat (a : Byte) : (highBit a).toNat = a.toNat / 128 := by
  have hbit : (highBit a).toNat = a.toNat / 128 % 2 := Nat.toNat_testBit a.toNat 7
  omega

/-! ### The instructions that write one register -/

/-- Settles O21: the byte stored is the operand, or the sum with it, and the write is the only one. -/
theorem immediateLoadAndAdd : Obligations.ImmediateLoadAndAdd := fun x nn s =>
  ⟨spelledBy_formatI rfl rfl rfl, spelledBy_formatI rfl rfl rfl,
    ⟨_, rfl, setReg_reg_self s x nn, setReg_onlyChanges s x _⟩,
    ⟨_, rfl, by rw [setReg_reg_self, BitVec.toNat_add], setReg_onlyChanges s x _⟩⟩

/-- Settles O22: the byte stored is the operand, or its bitwise combination, and the write is the only one. -/
theorem copyAndBitwise : Obligations.CopyAndBitwise := fun x y s =>
  ⟨spelledBy_formatR rfl rfl rfl, spelledBy_formatR rfl rfl rfl, spelledBy_formatR rfl rfl rfl, spelledBy_formatR rfl rfl rfl,
    ⟨_, rfl, setReg_reg_self s x _, setReg_onlyChanges s x _⟩,
    ⟨_, rfl, fun k => by rw [setReg_reg_self, BitVec.getLsbD_or], setReg_onlyChanges s x _⟩,
    ⟨_, rfl, fun k => by rw [setReg_reg_self, BitVec.getLsbD_and], setReg_onlyChanges s x _⟩,
    ⟨_, rfl, fun k => by rw [setReg_reg_self, BitVec.getLsbD_xor], setReg_onlyChanges s x _⟩⟩

/-- Settles O26: no AND exceeds its mask, and the count and the register are the two writes. -/
theorem randomUnderMask : Obligations.RandomUnderMask := by
  intro x nn s
  have stored := setReg_reg_self s.bumpDraws x (Config.draw8 s.draws &&& nn)
  have bounded : (Config.draw8 s.draws &&& nn).toNat ≤ nn.toNat := by
    rw [BitVec.toNat_and]
    exact Nat.and_le_right
  exact ⟨spelledBy_formatI rfl rfl rfl, _, rfl, stored, (congrArg BitVec.toNat stored).trans_le bounded, rfl,
    (setReg_onlyChanges s x _).trans (bumpDraws_onlyChanges _)⟩

/-! ### The instructions that write a result and its flag -/

/-- Settles O23: the flag is written after the sum. -/
theorem addSetsCarry : Obligations.AddSetsCarry := fun x y s =>
  ⟨spelledBy_formatR rfl rfl rfl, _, rfl,
    fun hx => by rw [setResultFlag_reg_self hx, BitVec.toNat_add],
    by rw [setResultFlag_flag_toNat, carry_toNat], setResultFlag_onlyChanges s x _ _⟩

/-- Settles O24: the flag is written after the difference; 8XY7 exchanges the operands. -/
theorem subtractSetsNotBorrow : Obligations.SubtractSetsNotBorrow := fun x y s =>
  ⟨spelledBy_formatR rfl rfl rfl, spelledBy_formatR rfl rfl rfl,
    ⟨_, rfl, fun hx => by rw [setResultFlag_reg_self hx, byte_sub_toNat],
      by rw [setResultFlag_flag_toNat, notBorrow_toNat], setResultFlag_onlyChanges s x _ _⟩,
    ⟨_, rfl, fun hx => by rw [setResultFlag_reg_self hx, byte_sub_toNat],
      by rw [setResultFlag_flag_toNat, notBorrow_toNat], setResultFlag_onlyChanges s x _ _⟩⟩

/-- Settles O25: the flag is written after the shifted source, which the toggle chooses. -/
theorem shiftsByOneBit : Obligations.ShiftsByOneBit := by
  intro x y s v hv
  obtain rfl : v = shiftSource s x y := hv
  exact ⟨spelledBy_formatR rfl rfl rfl, spelledBy_formatR rfl rfl rfl,
    ⟨_, rfl, fun hx => by rw [setResultFlag_reg_self hx, byte_ushiftRight_one_toNat],
      by rw [setResultFlag_flag_toNat, lowBit_toNat], setResultFlag_onlyChanges s x _ _⟩,
    ⟨_, rfl, fun hx => by rw [setResultFlag_reg_self hx, byte_shiftLeft_one_toNat],
      by rw [setResultFlag_flag_toNat, highBit_toNat], setResultFlag_onlyChanges s x _ _⟩⟩

end Sys2Proof.Machine

/-! PROOFS. The family 43_index_memory.md: what a write of `I` and a run of register loads change, where FX33 and FX55 put each
byte and FX65 reads it, and the six instructions read off these. -/

namespace Sys2Proof.Machine

/-! ### The word and the frame -/

/-- Format K of 30_encoding.md R83: an `op x nn` word whose `nn` is a fixed minor opcode. -/
theorem spelledBy_formatK {i : Instr} {op : BitVec 4} {x : Reg} {nn : Byte} {base : Nat} (wf : i.WellFormed)
    (henc : encode i = formatI op x nn) (hbase : op.toNat * 0x1000 + nn.toNat = base) : SpelledBy i (base + 0x100 * x.val) :=
  spelledBy_encode wf (by rw [henc, formatI_toNat, ← hbase]; ring)

theorem OnlyChanges.mono {may may' : Part → Prop} {s t : State} (h : OnlyChanges may s t) (hsub : ∀ p, may p → may' p) :
    OnlyChanges may' s t :=
  fun p hp => h p fun hm => hp (hsub p hm)

theorem setI_onlyChanges (s : State) (w : Word) : OnlyChanges (fun p => p = .index) s (s.setI w) := by
  intro p hp
  cases p with
  | index => exact absurd rfl hp
  | _ => rfl

theorem loadBytes_onlyChanges (s : State) (base : Nat) {count : Nat} (h : count ≤ 16) :
    OnlyChanges (fun p => ∃ r, p = .reg r ∧ r.val < count) s (s.loadBytes base count) := by
  intro p hp
  obtain ⟨v, hv⟩ := loadBytes_eq s base count
  cases p with
  | reg r =>
    have hr : ¬ r.val < count := fun hlt => hp ⟨r, rfl, hlt⟩
    exact (loadBytes_reg s base count h r).trans (if_neg hr)
  | _ => rw [hv]; rfl

/-! ### Stores and loads at the effective addresses -/

/-- A run of bytes stored from `I` on has byte `k` at effective address `k` (43_index_memory.md R166). -/
theorem storeBytes_readByte_effAddr (s : State) (bs : List Byte) {k : Nat} (h : k < bs.length) :
    (s.storeBytes (effAddr s 0) bs).readByte (effAddr s k) = bs[k] :=
  storeBytes_readByte_add s (effAddr s 0) bs h

/-- Each digit of a byte fits a byte (R163). -/
theorem digits_toNat (b : Byte) : (digits b).map BitVec.toNat = [b.toNat / 100, b.toNat / 10 % 10, b.toNat % 10] := by
  have hb := b.isLt
  simp only [digits, List.map_cons, List.map_nil, BitVec.toNat_ofNat, List.cons.injEq, and_true]
  omega

/-- FX33 stores digit `k` at `I + k` (R163). -/
theorem storeDigits_readByte_toNat (s : State) (b : Byte) {k : Nat} (h : k < 3) :
    ((s.storeBytes (effAddr s 0) (digits b)).readByte (effAddr s k)).toNat =
      [b.toNat / 100, b.toNat / 10 % 10, b.toNat % 10][k] := by
  have stored := storeBytes_readByte_effAddr s (digits b) (k := k) h
  simp only [stored, ← digits_toNat]
  exact (List.getElem_map BitVec.toNat).symm

theorem exec_ldB {x : Reg} {s : State} (h : effAddr s 2 ≤ 0xFFF) :
    exec (.ldB x) s = .next (s.storeBytes (effAddr s 0) (digits (s.reg x))) :=
  guardBound_of_le h

theorem exec_loadRegs {x : Reg} {s : State} (h : effAddr s x.val ≤ 0xFFF) :
    exec (.loadRegs x) s = .next ((s.loadBytes (effAddr s 0) (x.val + 1)).setI (indexAfter s x)) :=
  guardBound_of_le h

/-- FX65 loads register `r` from `I + r`, and no register above Vx (R165). -/
theorem loadRegs_reg (s : State) (x r : Reg) :
    (s.loadBytes (effAddr s 0) (x.val + 1)).reg r = if r.val ≤ x.val then s.readByte (effAddr s r.val) else s.reg r := by
  rw [loadBytes_reg s _ _ x.isLt]
  simp only [Nat.lt_succ_iff]
  rfl

theorem indexAfter_toNat (s : State) (x : Reg) :
    (indexAfter s x).toNat = if s.cfg.ldstInc then (s.i.toNat + x.val + 1) % 0x10000 else s.i.toNat := by
  unfold indexAfter
  split
  case isTrue => exact BitVec.toNat_ofNat (s.i.toNat + x.val + 1) 16
  case isFalse => rfl

/-- Settles O31: the bytes stored are the list of the three digits. -/
theorem storeDecimalDigits : Obligations.StoreDecimalDigits := by
  intro x s
  have digit {k : Nat} (h : k < 3) := storeDigits_readByte_toNat s (s.reg x) h
  exact ⟨spelledBy_formatK rfl rfl rfl,
    fun fits => ⟨_, exec_ldB fits, digit (k := 0) (by decide), digit (k := 1) (by decide), digit (k := 2) (by decide),
      storeBytes_onlyChanges s (effAddr s 0) (digits (s.reg x))⟩, guardBound_of_lt⟩

/-- Settles O32: byte `r` of what is stored is Vr, and `I` is written after it. -/
theorem storeRegisters : Obligations.StoreRegisters := by
  intro x s
  refine ⟨spelledBy_formatK rfl rfl rfl, fun fits => ⟨_, exec_storeRegs fits, fun r hr => storeRegs_readByte s hr,
    indexAfter_toNat s x, ?_⟩, guardBound_of_lt⟩
  have frame := (storeBytes_onlyChanges s (effAddr s 0) (regsUpTo s x)).trans (setI_onlyChanges _ (indexAfter s x))
  rw [regsUpTo_length] at frame
  exact frame.mono fun _ => Or.symm

/-- Settles O33: the loads read the bytes of the old state, and `I` is written after them. -/
theorem loadRegisters : Obligations.LoadRegisters := by
  intro x s
  refine ⟨spelledBy_formatK rfl rfl rfl, fun fits => ⟨_, exec_loadRegs fits, fun r hr => (loadRegs_reg s x r).trans (if_pos hr),
    indexAfter_toNat s x, ?_⟩, guardBound_of_lt⟩
  have frame := (loadBytes_onlyChanges s (effAddr s 0) x.isLt).trans (setI_onlyChanges _ (indexAfter s x))
  simp only [Nat.lt_succ_iff] at frame
  exact frame.mono fun _ => Or.symm

/-- Settles O34: with the same `I` the store and the load have the same bound and the same effective addresses. -/
theorem loadRestoresStoredRegisters : Obligations.LoadRestoresStoredRegisters := by
  intro x s t u hstore hi hmem
  obtain ⟨fits, ht⟩ := guardBound_eq_next.1 hstore
  obtain rfl := next_inj ht
  have sameAddr (k : Nat) : effAddr u k = effAddr s k := congrArg (fun w : Word => w.toNat + k) hi
  refine ⟨_, exec_loadRegs ((sameAddr x.val).trans_le fits), fun r => (loadRegs_reg u x r).trans ?_⟩
  split
  case isTrue hr => rw [hmem, sameAddr]; exact storeRegs_readByte s hr
  case isFalse => rfl

/-! ### The instructions that compute `I` -/

theorem indexSum_toNat (i : Word) (b : Byte) : (i + zext16 b).toNat = (i.toNat + b.toNat) % 0x10000 := by
  rw [BitVec.toNat_add, zext16_toNat]

theorem indexOverflow_toNat (i : Word) (b : Byte) :
    (indexOverflow i b).toNat = if i.toNat + b.toNat > 0xFFF then 1 else 0 := by
  simp [indexOverflow, Bool.toNat, Bool.cond_decide]

theorem setFlag_flag_toNat (s : State) (c : Bool) : ((s.setFlag c).reg 15).toNat = c.toNat := by
  rw [State.setFlag_reg, if_pos rfl]
  cases c <;> rfl

theorem glyphAddr_toNat (b : Byte) : (glyphAddr b).toNat = 0x050 + 5 * (b.toNat % 16) := by
  rw [glyphAddr, BitVec.toNat_ofNat]
  omega

theorem exec_addI_of_plain {s : State} (hq : s.cfg.fx1eVf = false) (x : Reg) :
    exec (.addI x) s = .next (s.setI (s.i + zext16 (s.reg x))) := by
  simp [exec, execAddI, hq]

theorem exec_addI_of_quirk {s : State} (hq : s.cfg.fx1eVf = true) (x : Reg) :
    exec (.addI x) s = .next ((s.setI (s.i + zext16 (s.reg x))).setFlag (indexOverflow s.i (s.reg x))) := by
  simp [exec, execAddI, hq]

/-- Settles O28: `I` is the operand, extended by zeros. -/
theorem loadIndex : Obligations.LoadIndex := fun nnn s =>
  ⟨spelledBy_formatA rfl rfl rfl, _, rfl, addr16_toNat nnn, setI_onlyChanges s _⟩

/-- Settles O29: the toggle adds the write of the flag, and the sum is the same. -/
theorem addToIndex : Obligations.AddToIndex := by
  intro x s
  refine ⟨spelledBy_formatK rfl rfl rfl, ?_⟩
  have sum := indexSum_toNat s.i (s.reg x)
  cases hq : s.cfg.fx1eVf with
  | false => exact ⟨_, exec_addI_of_plain hq x, sum, fun _ => setI_onlyChanges s _, nofun⟩
  | true =>
    have flag := (setFlag_flag_toNat (s.setI (s.i + zext16 (s.reg x))) _).trans (indexOverflow_toNat s.i (s.reg x))
    exact ⟨_, exec_addI_of_quirk hq x, sum, nofun, fun _ => ⟨flag, (setI_onlyChanges s _).trans (setReg_onlyChanges _ 15 _)⟩⟩

/-- Settles O30: no glyph address exceeds 16 bits. -/
theorem fontGlyphAddress : Obligations.FontGlyphAddress := fun x s =>
  ⟨spelledBy_formatK rfl rfl rfl, _, rfl, glyphAddr_toNat (s.reg x), setI_onlyChanges s _⟩

end Sys2Proof.Machine

/-! PROOFS. The family 44_display.md: CLS leaves every pixel unset; DXYN XORs the sprite's mask into the framebuffer and collects
the collisions in VF, so the same draw once more takes the mask out again. -/

namespace Sys2Proof.Machine

/-! ### 00E0 -/

theorem setFb_onlyChanges (s : State) (f : Frame) : OnlyChanges (fun p => ∃ y x, p = .pixel y x) s (s.setFb f) := by
  intro p hp
  cases p with
  | pixel y x => exact absurd ⟨y, x, rfl⟩ hp
  | _ => rfl

theorem snapshot_of_unset {s : State} (h : ∀ y x, s.fb.pixel y x = false) : snapshot s = List.replicate 2048 false := by
  refine List.eq_replicate_iff.2 ⟨snapshot_length s, fun b hb => ?_⟩
  obtain ⟨j, _, rfl⟩ := List.mem_map.1 hb
  exact h _ _

/-- Settles O38: the framebuffer written is the clear one. -/
theorem clearUnsetsEveryPixel : Obligations.ClearUnsetsEveryPixel := fun s =>
  ⟨spelledBy_encode rfl rfl, s.setFb Frame.clear, rfl, clear_pixel, snapshot_of_unset clear_pixel, setFb_onlyChanges s _⟩

/-! ### The sprite as a mask over the framebuffer -/

/-- Row `r`, column `c` of a sprite covers a pixel with a 1 bit exactly when the blit, visiting it, sets its target (R182). -/
theorem covers_and_bit_iff {clip : Bool} {x0 y0 n r c : Nat} {sprite : Nat → Byte} {py : Fin 32} {px : Fin 64} :
    Covers clip x0 y0 n py px r c ∧ (sprite r).getLsbD (7 - c) = true ↔
      (r, c) ∈ spritePixels n ∧ blitSets clip x0 y0 sprite (r, c) = true ∧ blitTarget x0 y0 (r, c) = (py, px) := by
  have target : blitTarget x0 y0 (r, c) = (py, px) ↔ py.val = (y0 + r) % 32 ∧ px.val = (x0 + c) % 64 := by
    simp [blitTarget, Fin.ext_iff, eq_comm]
  have drawn : blitSets clip x0 y0 sprite (r, c) = true ↔
      (clip = true → x0 + c ≤ 63 ∧ y0 + r ≤ 31) ∧ (sprite r).getLsbD (7 - c) = true := by
    cases clip <;> simp [blitSets, spriteBit]
  rw [mem_spritePixels, drawn, target, Covers]
  tauto

/-- DXYN's sprite has a 1 bit on the pixel, as the blit computes it. -/
def drawMask (x y : Reg) (n : Nat) (s : State) (py : Fin 32) (px : Fin 64) : Bool :=
  (spritePixels n).any fun p =>
    blitSets s.cfg.clip (startColumn (s.reg x)) (startRow (s.reg y)) (fun r => s.readByte (effAddr s r)) p &&
      decide (blitTarget (startColumn (s.reg x)) (startRow (s.reg y)) p = (py, px))

theorem drawMask_eq_true {x y : Reg} {n : Nat} {s : State} {py : Fin 32} {px : Fin 64} :
    drawMask x y n s py px = true ↔ SpriteSets s x y n py px := by
  simp only [drawMask, List.any_eq_true, Bool.and_eq_true, decide_eq_true_eq, Prod.exists, ← covers_and_bit_iff]
  rfl

theorem drawSprite_pixel (x y : Reg) {n : Nat} (hn : n < 16) (s : State) (py : Fin 32) (px : Fin 64) :
    (drawSprite x y n s).frame.pixel py px = (s.fb.pixel py px ^^ drawMask x y n s py px) :=
  (blit_spec _ _ _ n _ s.fb (by omega)).1 py px

/-- The blit hits when the sprite has a 1 bit on a pixel that was set (R182). -/
theorem drawSprite_hit (x y : Reg) {n : Nat} (hn : n < 16) (s : State) :
    (drawSprite x y n s).hit = true ↔ ∃ py px, SpriteSets s x y n py px ∧ s.fb.pixel py px = true := by
  rw [drawSprite, (blit_spec _ _ _ n _ s.fb (by omega)).2]
  simp only [← drawMask_eq_true, drawMask, List.any_eq_true, Bool.and_eq_true, decide_eq_true_eq]
  constructor
  · rintro ⟨p, hp, hbit, hset⟩
    exact ⟨_, _, ⟨p, hp, hbit, rfl⟩, hset⟩
  · rintro ⟨py, px, ⟨p, hp, hbit, htarget⟩, hset⟩
    exact ⟨p, hp, hbit, by rwa [htarget]⟩

/-! ### DXYN -/

/-- What DXYN leaves when its sprite is inside memory. -/
def afterDraw (x y : Reg) (n : Nat) (s : State) : State :=
  (s.setFb (drawSprite x y n s).frame).setFlag (drawSprite x y n s).hit

theorem exec_drw_eq_next {x y : Reg} {n : Nat} {s t : State} :
    exec (.drw x y n) s = .next t ↔ (n = 0 ∨ effAddr s (n - 1) ≤ 0xFFF) ∧ t = afterDraw x y n s := by
  refine guardSprite_eq_next.trans (and_congr_right fun _ => ?_)
  exact ⟨next_inj, fun h => congrArg _ h.symm⟩

theorem exec_drw_outOfBounds {n : Nat} {s : State} (hn : n ≠ 0) (h : 0xFFF < effAddr s (n - 1)) (x y : Reg) :
    exec (.drw x y n) s = .fault (.outOfBounds (effAddr s (n - 1))) :=
  guardSprite_eq_fault.2 (.inl ⟨n - 1, by omega, h, rfl⟩)

theorem afterDraw_pixel (x y : Reg) {n : Nat} (hn : n < 16) (s : State) (py : Fin 32) (px : Fin 64) :
    (afterDraw x y n s).fb.pixel py px = (s.fb.pixel py px ^^ drawMask x y n s py px) :=
  drawSprite_pixel x y hn s py px

theorem afterDraw_flag (x y : Reg) (n : Nat) (s : State) :
    (afterDraw x y n s).reg 15 = b2i (drawSprite x y n s).hit :=
  setReg_reg_self _ 15 _

theorem afterDraw_onlyChanges (x y : Reg) (n : Nat) (s : State) :
    OnlyChanges (fun p => p = .reg 15 ∨ ∃ py px, p = .pixel py px) s (afterDraw x y n s) :=
  ((setFb_onlyChanges s _).trans (setReg_onlyChanges _ 15 _)).mono fun _ => Or.symm

/-- A draw leaves the sprite's bytes and `I` alone, and the coordinates too when they are not in VF. -/
theorem drawMask_afterDraw {x y : Reg} (hx : x ≠ 15) (hy : y ≠ 15) (n : Nat) (s : State) :
    drawMask x y n (afterDraw x y n s) = drawMask x y n s := by
  funext py px
  simp [drawMask, afterDraw, effAddr, hx, hy]

theorem spelledBy_drw (x y : Reg) {n : Nat} (hn : n < 16) :
    SpelledBy (.drw x y n) (0xD000 + 0x100 * x.val + 0x10 * y.val + n) := by
  refine spelledBy_encode (decide_eq_true hn) ?_
  have hrows : (BitVec.ofNat 4 n).toNat = n := Nat.mod_eq_of_lt hn
  have hop : (0xD : BitVec 4).toNat = 0xD := rfl
  rw [encode, formatR_toNat, hrows, hop]
  omega

/-- Settles O39: the pixels are the old ones XOR the sprite's mask, and VF is the blit's hit. -/
theorem drawXorsSprite : Obligations.DrawXorsSprite := by
  intro x y n s hn
  refine ⟨spelledBy_drw x y hn, fun fits => ⟨_, exec_drw_eq_next.2 ⟨fits, rfl⟩, fun py px h => ?_, fun py px h => ?_,
    fun h => ?_, fun h => ?_, afterDraw_onlyChanges x y n s⟩, fun h0 hout => exec_drw_outOfBounds h0 hout x y⟩
  · rw [afterDraw_pixel x y hn, drawMask_eq_true.2 h, Bool.xor_true]
  · rw [afterDraw_pixel x y hn, Bool.eq_false_of_not_eq_true (mt drawMask_eq_true.1 h), Bool.xor_false]
  · rw [afterDraw_flag, (drawSprite_hit x y hn s).2 h]
    rfl
  · rw [afterDraw_flag, Bool.eq_false_of_not_eq_true (mt (drawSprite_hit x y hn s).1 h)]
    rfl

/-- Settles O40: the second draw has the same bound and the same mask, and a mask XORed in twice is gone. -/
theorem drawTwiceRestores : Obligations.DrawTwiceRestores := by
  intro x y n s t hn hx hy h
  obtain ⟨fits, rfl⟩ := exec_drw_eq_next.1 h
  refine ⟨_, exec_drw_eq_next.2 ⟨fits, rfl⟩, frame_ext fun py px => ?_⟩
  rw [afterDraw_pixel x y hn, afterDraw_pixel x y hn, drawMask_afterDraw hx hy, Bool.xor_assoc, Bool.xor_self, Bool.xor_false]

end Sys2Proof.Machine

/-! PROOFS. The family 45_keypad_timers.md: the key a register names, the moves to and from the timers, and the life of an FX0A:
its first cycle puts `pc` back and waits, further cycles idle, a press edge is captured, one more cycle completes it. -/

namespace Sys2Proof.Machine

/-! ### EX9E and EXA1 -/

/-- A key is the one a register value names when its number is the value (45_keypad_timers.md R190). -/
theorem withKey_of_val_eq {b : Byte} {k : Key} (hk : k.val = b.toNat) (f : Key → Result) : withKey b f = f k := by
  have hle : b.toNat ≤ 15 := by omega
  rw [withKey, guardBound_of_le hle, ← hk, Fin.ofNat_val_eq_self]

theorem exec_skp {x : Reg} {s : State} {k : Key} (hk : k.val = (s.reg x).toNat) :
    exec (.skp x) s = .next (s.skipIf (s.keyFlag k)) :=
  withKey_of_val_eq hk fun k => .next (s.skipIf (s.keyFlag k))

theorem exec_sknp {x : Reg} {s : State} {k : Key} (hk : k.val = (s.reg x).toNat) :
    exec (.sknp x) s = .next (s.skipIf (!s.keyFlag k)) :=
  withKey_of_val_eq hk fun k => .next (s.skipIf (!s.keyFlag k))

theorem skipIf_not_pc (s : State) (c : Bool) : (s.skipIf (!c)).pc = if c then s.pc else s.pc + 2 := by
  cases c <;> rfl

/-- Settles O42: both skips read the flag of the one key Vx names, and a value that names none fails the same bound. -/
theorem skipsOnKey : Obligations.SkipsOnKey := fun _ s =>
  ⟨spelledBy_formatK rfl rfl rfl, spelledBy_formatK rfl rfl rfl,
    fun _ hk => ⟨⟨_, exec_skp hk, skipIf_pc s _, skipIf_onlyChanges s _⟩,
      ⟨_, exec_sknp hk, skipIf_not_pc s _, skipIf_onlyChanges s _⟩⟩,
    fun above => ⟨guardBound_of_lt above, guardBound_of_lt above⟩⟩

/-! ### FX07, FX15 and FX18 -/

theorem setDt_onlyChanges (s : State) (b : Byte) : OnlyChanges (fun p => p = .delayTimer) s (s.setDt b) := by
  intro p hp
  cases p with
  | delayTimer => exact absurd rfl hp
  | _ => rfl

theorem setSt_onlyChanges (s : State) (b : Byte) : OnlyChanges (fun p => p = .soundTimer) s (s.setSt b) := by
  intro p hp
  cases p with
  | soundTimer => exact absurd rfl hp
  | _ => rfl

/-- The tone sounds exactly while ST is not 0 (10_state.md R29). -/
theorem tone_eq_true {s : State} : s.tone = true ↔ s.st ≠ 0 := by
  rw [State.tone, decide_eq_true_iff, Nat.pos_iff_ne_zero]
  exact BitVec.toNat_ne_iff_ne (y := 0)

/-- Settles O43: each move writes one register or timer, and the tone reads the sound timer. -/
theorem timerMoves : Obligations.TimerMoves := fun x s =>
  ⟨spelledBy_formatK rfl rfl rfl, spelledBy_formatK rfl rfl rfl, spelledBy_formatK rfl rfl rfl,
    ⟨_, rfl, setReg_reg_self s x s.dt, setReg_onlyChanges s x _⟩,
    ⟨_, rfl, rfl, setDt_onlyChanges s _⟩,
    ⟨s.setSt (s.reg x), rfl, rfl, tone_eq_true, setSt_onlyChanges s _⟩⟩

/-! ### FX0A -/

theorem setWait_onlyChanges (s : State) (w : Wait) : OnlyChanges (fun p => p = .wait) s (s.setWait w) := by
  intro p hp
  cases p with
  | wait => exact absurd rfl hp
  | _ => rfl

theorem setPending_onlyChanges (s : State) (l : List HostOp) : OnlyChanges (fun p => p = .pending) s (s.setPending l) := by
  intro p hp
  cases p with
  | pending => exact absurd rfl hp
  | _ => rfl

/-- Settles O44: the two writes are of `pc` and of the wait. -/
theorem waitForKeyBegins : Obligations.WaitForKeyBegins := fun _ s =>
  ⟨spelledBy_formatK rfl rfl rfl, _, rfl, rfl, rfl, (setPc_onlyChanges s _).trans (setWait_onlyChanges _ _)⟩

/-- On the advanced state FX0A restores the `pc` it was fetched at, so all it does is to wait (R195). -/
theorem exec_ldVxK_advance (x : Reg) (s : State) : exec (.ldVxK x) s.advance = .next (s.setWait (.awaitKey x)) := by
  have hpc : s.advance.pc - 2 = s.pc := BitVec.add_sub_cancel s.pc 2
  simp only [exec, execLdVxK, hpc]
  rfl

/-- The cycle that fetches an FX0A begins the wait and changes nothing else (40_operations.md R105). -/
theorem cycle_ldVxK {s : State} {x : Reg} (run : s.wait = .run) (hf : s.canFetch)
    (hd : decodeWord s.fetchWord = .ok (.ldVxK x)) : cycle s = .next (s.setWait (.awaitKey x)) :=
  (cycle_of_decodeWord_eq_ok run hf hd).trans (exec_ldVxK_advance x s)

/-! ### The life of an FX0A -/

/-- A step performs the operation at the head of the host's list. -/
theorem step_of_pending_cons {s t : State} {op : HostOp} {l : List HostOp} (hl : s.pending = op :: l)
    (hp : perform op (s.setPending l) = .next t) : step s = .next t := by
  have hop : s.nextOp = op := by rw [State.nextOp, hl]; rfl
  have hpop : s.popOp = s.setPending l := by rw [State.popOp, hl]; rfl
  exact step_eq_next.2 (.inl (by rw [hop, hpop]; exact hp))

/-- While a key is awaited, cycles only use up the host's list. -/
theorem run_awaitKey (n : Nat) {s : State} {x : Reg} {l : List HostOp} (hw : s.wait = .awaitKey x)
    (hl : s.pending = List.replicate n .cycle ++ l) : core.run n s = .next (s.setPending l) := by
  induction n generalizing s with
  | zero =>
    obtain rfl : s.pending = l := hl
    rfl
  | succ n ih => exact (run_succ (step_of_pending_cons hl (awaitingCycleDoesNothing _ x hw)) n).trans (ih hw rfl)

/-- `n + 1` cycles from an FX0A: the first begins the wait, the others change nothing more. -/
theorem run_ldVxK (n : Nat) {s : State} {x : Reg} {l : List HostOp} (run : s.wait = .run) (hf : s.canFetch)
    (hd : decodeWord s.fetchWord = .ok (.ldVxK x)) (hl : s.pending = List.replicate (n + 1) .cycle ++ l) :
    core.run (n + 1) s = .next ((s.setWait (.awaitKey x)).setPending l) := by
  have hbegin := step_of_pending_cons hl (cycle_ldVxK (s := s.setPending _) run hf hd)
  exact (run_succ hbegin n).trans (run_awaitKey n rfl rfl)

/-- The end of the wait: a press of `k` is captured and the cycle after it stores `k` (40_operations.md R110, R108). -/
theorem press_then_cycle {t : State} {x : Reg} {k : Key} (hw : t.wait = .awaitKey x) (hup : t.keyFlag k = false)
    (hl : t.pending = [.setKey k.val true, .cycle]) :
    ∃ u v, step t = .next u ∧ u.wait = .keyCaptured x k ∧ u.keyFlag k = true ∧ u.reg x = t.reg x ∧
      step u = .next v ∧ v.wait = .run ∧ (v.reg x).toNat = k.val ∧ v.pc = t.pc + 2 ∧
      OnlyChanges (fun p => p = .reg x ∨ p = .pc ∨ p = .wait ∨ p = .keyFlag k ∨ p = .pending) t v := by
  obtain ⟨u, hpress, hflag, hcapture, -, hu⟩ := setKeyWritesFlag.1 k true (t.setPending [.cycle])
  have hwait : u.wait = .keyCaptured x k := hcapture x hw rfl hup
  have hreg : u.reg x = t.reg x := hu (.reg x) (by simp)
  have hpc : u.pc = t.pc := hu .pc (by simp)
  have hlast : u.pending = [.cycle] := hu .pending (by simp)
  obtain ⟨v, hcycle, hstored, hpc', hrun, hv⟩ := capturedKeyCompletes (u.setPending []) x k hwait
  have hframe := (((setPending_onlyChanges t _).trans hu).trans (setPending_onlyChanges u [])).trans hv
  exact ⟨u, v, step_of_pending_cons hl hpress, hwait, hflag, hreg, step_of_pending_cons hlast hcycle, hrun, hstored,
    by rw [hpc', State.setPending_pc, hpc], hframe.mono fun _ _ => by tauto⟩

/-- Settles O47: the cycles begin the wait and idle, the press and the last cycle end it, and the two frames add up. -/
theorem keyWaitLife : Obligations.KeyWaitLife := by
  intro s x k n run hf hd hup hl
  have hbegin := run_ldVxK n run hf (decode_pair_eq_ok.1 hd) hl
  obtain ⟨u, v, hpress, hcaptured, hflag, hreg, hcycle, hrun, hstored, hpc, hend⟩ :=
    press_then_cycle (t := (s.setWait (.awaitKey x)).setPending [.setKey k.val true, .cycle]) rfl hup rfl
  have hframe := ((setWait_onlyChanges s _).trans (setPending_onlyChanges _ _)).trans hend
  exact ⟨_, u, v, hbegin, rfl, rfl, hpress, hcaptured, hflag, hreg, hcycle, hrun, hstored,
    (congrArg BitVec.toNat hpc).trans (advance_pc_toNat hf), hframe.mono fun _ _ => by tauto⟩

end Sys2Proof.Machine

/-! PROOFS. The family 60_exceptions.md: the errors an operation can report, said once for each function on the way from `perform`
down to `exec`; the status of every operation, what an error leaves, and how far n ticks count down are read off these. -/

namespace Sys2Proof.Machine

/-! ### What an error leaves -/

/-- The state an error leaves differs in `pc` at most, and only for a cycle that fetched (60_exceptions.md R208). -/
theorem afterError_eq (op : HostOp) (s : State) :
    afterError op s = s.setPc (if op = .cycle ∧ s.pc.toNat ≤ 0xFFE then s.pc + 2 else s.pc) := by
  cases op with
  | cycle =>
    simp only [true_and]
    split
    case isTrue hf => exact if_pos hf
    case isFalse hf => exact if_neg hf
  | reset | load _ | tickTimers | setKey _ _ | framebufferSnapshot => rfl

/-- Settles O9: the step answers the fault or the state it leaves, which is the old one with its list popped and `pc` set. -/
theorem errorsArePrecise : Obligations.ErrorsArePrecise := by
  refine fun s f hp => ⟨step_of_fault_halt hp, fun hpol => ?_⟩
  have hstep := step_of_fault_goOn hp hpol
  rw [afterError_eq] at hstep
  exact ⟨_, hstep, rfl, rfl,
    ((setPending_onlyChanges s _).trans (setPc_onlyChanges s.popOp _)).mono fun _ => Or.symm⟩

/-! ### Ticks -/

theorem Part.same.refl (p : Part) (s : State) : p.same s s := by
  cases p <;> rfl

/-- Settles O51, by induction on the number of ticks: each takes 1 from a timer that is not 0. -/
theorem ticksCountDownToZero : Obligations.TicksCountDownToZero := by
  intro s n hl
  induction n generalizing s with
  | zero => exact ⟨s, rfl, rfl, rfl, fun p _ => .refl p s⟩
  | succ n ih =>
    obtain ⟨u, htick, hdt, hst, hu⟩ := tickDecrementsTimers (s.setPending (List.replicate n .tickTimers))
    obtain ⟨t, hrun, hdt', hst', ht⟩ := ih u (hu .pending (by simp))
    have hframe := ((setPending_onlyChanges s _).trans hu).trans ht
    refine ⟨t, (run_succ (step_of_pending_cons hl htick) n).trans hrun, ?_, ?_, hframe.mono fun _ _ => by tauto⟩
    · rw [hdt', hdt, State.setPending_dt, Nat.sub_sub, Nat.add_comm 1 n]
    · rw [hst', hst, State.setPending_st, Nat.sub_sub, Nat.add_comm 1 n]

/-! ### The errors of each operation -/

theorem hostLoad_eq_fault {bytes : List Byte} {s : State} {f : Fault} :
    hostLoad bytes s = .fault f ↔ 3584 < bytes.length ∧ f = .romTooLarge bytes.length := by
  unfold hostLoad raise
  split
  case isTrue h => simp [h, eq_comm]
  case isFalse h => simp [h]

/-- A cycle reports an error of its fetch, of its decoding or of its instruction (60_exceptions.md R202 to R205). -/
theorem cycle_eq_fault {s : State} {f : Fault} :
    cycle s = .fault f ↔ s.wait = .run ∧
      ((0xFFE < s.pc.toNat ∧ f = .outOfBounds s.pc.toNat) ∨
        s.pc.toNat ≤ 0xFFE ∧
          ((decode? s.fetchWord = none ∧ f = .invalidOpcode s.fetchWord) ∨
            ∃ i, decodeWord s.fetchWord = .ok i ∧ exec i s.advance = .fault f)) := by
  by_cases hw : s.wait = .run
  case neg => exact iff_of_false (fun h => hw (wait_of_cycle_fault h)) (fun h => hw h.1)
  by_cases hf : s.canFetch
  case neg =>
    have hpc : 0xFFE < s.pc.toNat := Nat.lt_of_not_le hf
    simp [cycle_of_not_canFetch hw hf, hw, hpc, Nat.not_le_of_lt hpc, eq_comm]
  have hpc : ¬ 0xFFE < s.pc.toNat := Nat.not_lt_of_le hf
  cases hd : decode? s.fetchWord with
  | none => simp [cycle_of_decode?_eq_none hw hf hd, hw, hpc, Nat.le_of_not_lt hpc, decodeWord_eq_ok, hd, eq_comm (a := f)]
  | some i =>
    simp [cycle_of_decodeWord_eq_ok hw hf (decodeWord_eq_ok.2 hd), hw, hpc, Nat.le_of_not_lt hpc, decodeWord_eq_ok, hd]

/-- Only `load` and `cycle` report errors (60_exceptions.md R201 to R205). -/
theorem perform_eq_fault {op : HostOp} {s : State} {f : Fault} :
    perform op s = .fault f ↔
      (∃ bytes, op = .load bytes ∧ 3584 < bytes.length ∧ f = .romTooLarge bytes.length) ∨ (op = .cycle ∧ cycle s = .fault f) := by
  cases op with
  | load bytes => simp [perform, hostLoad_eq_fault]
  | cycle => simp [perform]
  | reset | tickTimers | setKey _ _ | framebufferSnapshot => exact iff_of_false next_ne_fault (by simp)

/-! ### The instructions that report each error -/

theorem exec_ne_romTooLarge {i : Instr} {s : State} {n : Nat} : exec i s ≠ .fault (.romTooLarge n) := by
  simp [errorConditionsOfInstructions i s _]

theorem exec_ne_invalidOpcode {i : Instr} {s : State} {w : Word} : exec i s ≠ .fault (.invalidOpcode w) := by
  simp [errorConditionsOfInstructions i s _]

theorem exec_eq_stackOverflow {i : Instr} {s : State} :
    exec i s = .fault .stackOverflow ↔ (∃ nnn, i = .call nnn) ∧ 16 ≤ s.stack.length := by
  simp [errorConditionsOfInstructions i s _]

theorem exec_eq_stackUnderflow {i : Instr} {s : State} : exec i s = .fault .stackUnderflow ↔ i = .ret ∧ s.stack = [] := by
  simp [errorConditionsOfInstructions i s _]

/-! ### The operations that report each error -/

section
variable {op : HostOp} {s : State}

theorem perform_eq_romTooLarge {n : Nat} :
    perform op s = .fault (.romTooLarge n) ↔ ∃ bytes, op = .load bytes ∧ 3584 < bytes.length ∧ n = bytes.length := by
  simp [perform_eq_fault, cycle_eq_fault, exec_ne_romTooLarge]

theorem perform_eq_stackOverflow :
    perform op s = .fault .stackOverflow ↔ op = .cycle ∧ s.wait = .run ∧ s.pc.toNat ≤ 0xFFE ∧
      (∃ nnn, decodeWord s.fetchWord = .ok (.call nnn)) ∧ 16 ≤ s.stack.length := by
  simp [perform_eq_fault, cycle_eq_fault, exec_eq_stackOverflow]

theorem perform_eq_stackUnderflow :
    perform op s = .fault .stackUnderflow ↔ op = .cycle ∧ s.wait = .run ∧ s.pc.toNat ≤ 0xFFE ∧
      decodeWord s.fetchWord = .ok .ret ∧ s.stack = [] := by
  simp [perform_eq_fault, cycle_eq_fault, exec_eq_stackUnderflow]

theorem perform_eq_invalidOpcode {w : Word} :
    perform op s = .fault (.invalidOpcode w) ↔ op = .cycle ∧ s.wait = .run ∧ s.pc.toNat ≤ 0xFFE ∧
      (∀ r ∈ opcodeTable, r.accepts s.fetchWord = false) ∧ w = s.fetchWord := by
  simp [perform_eq_fault, cycle_eq_fault, exec_ne_invalidOpcode, decode?_eq_none]

theorem perform_eq_outOfBounds {a : Nat} :
    perform op s = .fault (.outOfBounds a) ↔ op = .cycle ∧ s.wait = .run ∧
      ((0xFFE < s.pc.toNat ∧ a = s.pc.toNat) ∨
        s.pc.toNat ≤ 0xFFE ∧ ∃ i, decodeWord s.fetchWord = .ok i ∧ exec i s.advance = .fault (.outOfBounds a)) := by
  simp [perform_eq_fault, cycle_eq_fault]

end

/-! ### Status -/

/-- A status other than 0 names the error reported (60_exceptions.md R206). -/
theorem resultStatus_eq_code {r : Result} {n : Nat} (hn : n ≠ 0) :
    resultStatus r = some n ↔
      (n = 1 ∧ ∃ l, r = .fault (.romTooLarge l)) ∨ (n = 2 ∧ r = .fault .stackOverflow) ∨ (n = 3 ∧ r = .fault .stackUnderflow) ∨
        (n = 4 ∧ ∃ w, r = .fault (.invalidOpcode w)) ∨ (n = 5 ∧ ∃ a, r = .fault (.outOfBounds a)) := by
  cases r with
  | next t => simp [hn.symm]
  | fault f => cases f <;> simp [Fault.code, eq_comm]
  | refused q => simp

theorem resultStatus_perform_le (op : HostOp) (s : State) : ∃ n, resultStatus (perform op s) = some n ∧ n ≤ 5 := by
  cases hp : perform op s with
  | next t => exact ⟨0, rfl, Nat.zero_le 5⟩
  | fault f => exact ⟨f.code, rfl, (code_range f).2⟩
  | refused q => exact absurd hp perform_ne_refused

/-- Settles O60: a status other than 0 names one error, and each error has its lemma of which operations report it. -/
theorem operationStatus : Obligations.OperationStatus := by
  refine fun op s => ⟨resultStatus_perform_le op s, resultStatus_eq_zero, ?_, ?_, ?_, ?_, ?_⟩
  · simp [resultStatus_eq_code, perform_eq_romTooLarge]
  · simp [resultStatus_eq_code, perform_eq_stackOverflow]
  · simp [resultStatus_eq_code, perform_eq_stackUnderflow]
  · simp [resultStatus_eq_code, perform_eq_invalidOpcode]
  · simp [resultStatus_eq_code, perform_eq_outOfBounds, exists_or, exists_comm (α := Nat)]

end Sys2Proof.Machine

/-! PROOFS. The family 70_reset_and_hazards.md: `reset` leaves `pc` at the address where `load` puts the ROM's first byte. -/

namespace Sys2Proof.Machine

/-- The fetch of two bytes stored at `pc` (20_memory.md R58). -/
theorem storeBytes_fetchWord_toNat (s : State) (b0 b1 : Byte) (rest : List Byte) :
    (s.storeBytes s.pc.toNat (b0 :: b1 :: rest)).fetchWord.toNat = b0.toNat * 256 + b1.toNat := by
  have read0 : (s.storeBytes s.pc.toNat (b0 :: b1 :: rest)).readByte s.pc.toNat = b0 :=
    storeBytes_readByte_add s s.pc.toNat (b0 :: b1 :: rest) (k := 0) (by simp)
  have read1 : (s.storeBytes s.pc.toNat (b0 :: b1 :: rest)).readByte (s.pc.toNat + 1) = b1 :=
    storeBytes_readByte_add s s.pc.toNat (b0 :: b1 :: rest) (k := 1) (by simp)
  rw [instructionWordIsBigEndian, State.storeBytes_pc, read0, read1]

/-- Settles O55: the ROM is stored at the `pc` that `reset` left, and `load` changes neither `pc` nor the wait. -/
theorem firstFetchIsStartOfRom : Obligations.FirstFetchIsStartOfRom := by
  intro s b0 b1 rest hrest
  have hfits : (b0 :: b1 :: rest).length ≤ 3584 := by simp only [List.length_cons]; omega
  exact ⟨hostReset s, (hostReset s).storeBytes 0x200 (b0 :: b1 :: rest), rfl, hostLoad_eq_next.2 ⟨hfits, rfl⟩, rfl, rfl,
    storeBytes_fetchWord_toNat (hostReset s) b0 b1 rest⟩

end Sys2Proof.Machine
